-- ==== Sys2Proof/Word.lean ====
section
/-! DEFINITION. The widths the hardware moves (spec/00_scope.md R6, R9; spec/20_memory.md R55): every value is unsigned. -/

namespace Sys2Proof

/-- The source's "u8": masks, raw masks, the run counter and the bytes of the Report Record (R6, R9). -/
abbrev Byte := BitVec 8

/-- The source's "u16": samples, thresholds, axis values, `MAX_AXIS` and the button field (R6, R9). -/
abbrev Half := BitVec 16

end Sys2Proof
end

