-- ==== Sys2Proof/Config.lean ====
section
/-! DEFINITION. What an implementation fixes before the first operation and no operation writes: the constants of R6,
the Band Tables (R27), `MAX_AXIS` (R28), the number of channels (R7), and the configuration the device is supplied with,
which the spec leaves open and which therefore has no body. -/

namespace Sys2Proof

/-- `DEBOUNCE_N` of R6: the run length at which a commit happens. -/
def debounceN : Byte := 10

/-- `COUNT_MAX` of R6: the value at which the run counter saturates. -/
def countMax : Byte := 255

/-- One entry of a Band Table (R27): the threshold (16 bits) and the mapping (4 bits, decision D6 of the spec). -/
structure BandEntry where
  thr : Half
  map : BitVec 4
  deriving DecidableEq, Repr, Inhabited

/-- A Band Table: "an ordered sequence of exactly 5 entries" (R27), index 0 first (R76). -/
structure BandTable where
  e0 : BandEntry
  e1 : BandEntry
  e2 : BandEntry
  e3 : BandEntry
  e4 : BandEntry
  deriving DecidableEq, Repr, Inhabited

/-- The entry at an index `0..4` (R27, R30). -/
def BandTable.entry (t : BandTable) : Fin 5 → BandEntry
  | 0 => t.e0
  | 1 => t.e1
  | 2 => t.e2
  | 3 => t.e3
  | 4 => t.e4

/-- The five entries in scan order (R76, R101). -/
def BandTable.entries (t : BandTable) : List BandEntry := [t.e0, t.e1, t.e2, t.e3, t.e4]

/-- The configuration of one device (R7, R13, R26 to R28): `TABLE[0]`, the tables of the further channels in channel order,
and `MAX_AXIS`. That there is a `TABLE[0]` is the spec's `NCH >= 1`. -/
structure Config where
  table0     : BandTable
  moreTables : List BandTable
  maxAxis    : Half
  deriving DecidableEq, Repr, Inhabited

/-- `TABLE[0..NCH-1]` (R7, R27). -/
def Config.tables (cfg : Config) : List BandTable := cfg.table0 :: cfg.moreTables

/-- `NCH` (R7): one channel for each table. -/
def Config.nch (cfg : Config) : Nat := cfg.moreTables.length + 1

/-- The configuration the device is supplied with "once at startup (or compile time)" (R13, R213): `NCH`, the tables and
`MAX_AXIS` are OPEN parameters (R7; D4, D11, D12), so nothing can be proved of this value. See notes/assumptions/2.md. -/
opaque Config.supplied : Config

end Sys2Proof
end

