-- ==== Sys2Proof/Syntax.lean ====
section
/-! DEFINITION. The operations, one constructor for each row of spec/opcode_table.json (R72), with the operands of R74, and
the ports on which the caller presents an operation (R71, R74, R84). -/

namespace Sys2Proof

/-- One operation with the operands it reads (R74). `ch` is the value on the channel port, a number because the port's width
`CH_W` depends on the open parameter `NCH`; `WellFormed` says when it fits. -/
inductive Instr where
  /-- `NOP`: no call is made (R171). -/
  | nop
  /-- `DEC ch, sample => mask` (R101). -/
  | dec (ch : Nat) (sample : Half)
  /-- `STEP ch, raw_in => mask` (R121). -/
  | step (ch : Nat) (raw : Byte)
  /-- `TICK ch, sample => mask` (R126). -/
  | tick (ch : Nat) (sample : Half)
  /-- `RDC ch => mask` (R172). -/
  | rdc (ch : Nat)
  /-- `FRAME a0, a1, a2, a3, btn => REC` (R151). -/
  | frame (a0 a1 a2 a3 : Half) (btn : Half)
  /-- The reserved control code 6 (R72, R80). -/
  | reserved6
  /-- The reserved control code 7 (R72, R80). -/
  | reserved7
  /-- `RST` (R174); `op` is what stands on `ctl[2:0]`, the letters `o` of the table's `1ooo`, which the block ignores. -/
  | rst (op : BitVec 3)
  deriving DecidableEq, Repr

/-- One presentation of an operation: the control vector `ctl[3:0]` (R71) and the operand ports beside it (R74, R84). -/
structure Ports where
  ctl    : BitVec 4
  ch     : Nat
  sample : Half
  rawIn  : Byte
  a0     : Half
  a1     : Half
  a2     : Half
  a3     : Half
  btn    : Half
  deriving DecidableEq, Repr

/-- Every port at zero: the control vector of `NOP`, "no call this cycle" (R72). -/
def Ports.idle : Ports := ⟨0, 0, 0, 0, 0, 0, 0, 0, 0⟩

end Sys2Proof
end

