-- ==== Sys2Proof/WellFormed.lean ====
section
/-! DEFINITION. When an operation can be presented on the ports of R74 (its channel number fits `CH_W` bits), and when it is
one to which the spec's encoding gives more than "no register changes; no result is valid" (R80). -/

namespace Sys2Proof

/-- `ch` can stand on a port of `w >= 1` bits: it has at most `w` bits, that is `ch < 2^w` (`Laws.fitsPort_iff`). -/
def fitsPort (w ch : Nat) : Bool := decide (Nat.log2 ch < w)

/-- The channel operand an operation reads, if it reads one (R74). -/
def Instr.channel? : Instr → Option Nat
  | .nop => none
  | .dec ch _ => some ch
  | .step ch _ => some ch
  | .tick ch _ => some ch
  | .rdc ch => some ch
  | .frame _ _ _ _ _ => none
  | .reserved6 => none
  | .reserved7 => none
  | .rst _ => none

/-- The operation can be presented to a block whose channel port has `w` bits (R74). Every other operand is a whole value of
its port's width by its type. -/
def Instr.wellFormed (w : Nat) (i : Instr) : Bool :=
  match i.channel? with
  | some ch => fitsPort w ch
  | none => true

/-- The operation is not one of R80's reserved encodings on a block with `nch` channels: neither control code 6 or 7 nor a
channel number `>= NCH`. -/
def Instr.legal (nch : Nat) (i : Instr) : Bool :=
  match i with
  | .reserved6 => false
  | .reserved7 => false
  | .nop => true
  | .dec ch _ => decide (ch < nch)
  | .step ch _ => decide (ch < nch)
  | .tick ch _ => decide (ch < nch)
  | .rdc ch => decide (ch < nch)
  | .frame _ _ _ _ _ => true
  | .rst _ => true

end Sys2Proof
end

