-- ==== Sys2Proof/Decode.lean ====
section
/-! DEFINITION. The decoder of the control vector (R71, R72), its encoder, and the reading of a row of
spec/opcode_table.json as a presentation. -/

namespace Sys2Proof

/-- What a control vector selects: the nine rows of R72. -/
inductive OpCode where
  | nop | dec | step | tick | rdc | frame | reserved6 | reserved7 | rst
  deriving DecidableEq, Repr

/-- A row of R72: a control vector `v` selects it when `v AND mask == match`. -/
structure CtlRow where
  op   : OpCode
  bits : BitVec 4
  mask : BitVec 4
  deriving DecidableEq, Repr

/-- The operation map of R72. -/
def ctlRows : List CtlRow :=
  [ ⟨.nop,       0x0, 0xF⟩,
    ⟨.dec,       0x1, 0xF⟩,
    ⟨.step,      0x2, 0xF⟩,
    ⟨.tick,      0x3, 0xF⟩,
    ⟨.rdc,       0x4, 0xF⟩,
    ⟨.frame,     0x5, 0xF⟩,
    ⟨.reserved6, 0x6, 0xF⟩,
    ⟨.reserved7, 0x7, 0xF⟩,
    ⟨.rst,       0x8, 0x8⟩ ]

/-- The control vector selects the row (R72). -/
def CtlRow.selects (r : CtlRow) (ctl : BitVec 4) : Bool := (ctl &&& r.mask) == r.bits

/-- The row a control vector selects (R72): exactly one does, for each of the sixteen vectors. -/
def selectOp (ctl : BitVec 4) : Option OpCode := (ctlRows.find? (·.selects ctl)).map (·.op)

/-- Why a presentation decodes to nothing. -/
inductive DecodeError where
  /-- The operation reads the channel port and the number presented has more bits than the port (R74): no port of the block
  can carry it, so it is no encoding of the spec, reserved or other. -/
  | channelTooWide
  /-- No row of R72 is selected. It never arises: the sixteen vectors are all accounted for. -/
  | noRow
  deriving DecidableEq, Repr

/-- The instruction, if the channel number it reads fits a port of `w` bits. -/
def decodeChannel (w ch : Nat) (i : Instr) : Except DecodeError Instr :=
  if fitsPort w ch then .ok i else .error .channelTooWide

/-- The operation a presentation stands for, on a block whose channel port has `w` bits (R71, R72, R74): only the operand
ports that the selected operation reads are looked at. -/
def decode (w : Nat) (p : Ports) : Except DecodeError Instr :=
  match selectOp p.ctl with
  | some .nop       => .ok .nop
  | some .dec       => decodeChannel w p.ch (.dec p.ch p.sample)
  | some .step      => decodeChannel w p.ch (.step p.ch p.rawIn)
  | some .tick      => decodeChannel w p.ch (.tick p.ch p.sample)
  | some .rdc       => decodeChannel w p.ch (.rdc p.ch)
  | some .frame     => .ok (.frame p.a0 p.a1 p.a2 p.a3 p.btn)
  | some .reserved6 => .ok .reserved6
  | some .reserved7 => .ok .reserved7
  | some .rst       => .ok (.rst (p.ctl.extractLsb' 0 3))
  | none            => .error .noRow

/-- The control vector of an operation (R72). -/
def Instr.ctl : Instr → BitVec 4
  | .nop => 0b0000
  | .dec _ _ => 0b0001
  | .step _ _ => 0b0010
  | .tick _ _ => 0b0011
  | .rdc _ => 0b0100
  | .frame _ _ _ _ _ => 0b0101
  | .reserved6 => 0b0110
  | .reserved7 => 0b0111
  | .rst op => (1#1 ++ op : BitVec (1 + 3))

/-- The presentation of an operation: its control vector and its operands (R72, R74), every port it does not read at zero. -/
def encode (i : Instr) : Ports :=
  match i with
  | .nop => { Ports.idle with ctl := i.ctl }
  | .dec ch sample => { Ports.idle with ctl := i.ctl, ch := ch, sample := sample }
  | .step ch raw => { Ports.idle with ctl := i.ctl, ch := ch, rawIn := raw }
  | .tick ch sample => { Ports.idle with ctl := i.ctl, ch := ch, sample := sample }
  | .rdc ch => { Ports.idle with ctl := i.ctl, ch := ch }
  | .frame a0 a1 a2 a3 btn => { Ports.idle with ctl := i.ctl, a0 := a0, a1 := a1, a2 := a2, a3 := a3, btn := btn }
  | .reserved6 => { Ports.idle with ctl := i.ctl }
  | .reserved7 => { Ports.idle with ctl := i.ctl }
  | .rst _ => { Ports.idle with ctl := i.ctl }

/-- The presentation that a row of spec/opcode_table.json stands for: the table numbers only `ctl[3:0]`, bits 3..0 of the
word; the operands are not packed into it (R71), so every operand port carries zero. -/
def Ports.ofWord (nbits w : Nat) : Ports := { Ports.idle with ctl := BitVec.ofNat 4 (w % 2 ^ nbits) }

/-- What the decoder reads from a row's word. Channel 0 fits the channel port of every block, so the narrowest port, one bit
(R74), is taken. -/
def decodeTableWord (nbits w : Nat) : Option Instr :=
  match decode 1 (Ports.ofWord nbits w) with
  | .ok i => some i
  | .error _ => none

end Sys2Proof
end

