-- ==== Sys2Proof/Machine/State.lean ====
section
/-! DEFINITION. The state of the machine as plain data: the three registers of each channel (R20 to R23), the configuration
they run under (R13, R27, R28), and the two ends of the caller's interface (R12, R75); its faults, its refusals and its reset. -/

namespace Sys2Proof.Machine

/-- The registers of one channel (R20). -/
structure Channel where
  /-- `CNT[c]`, the source's `stable_run_count` (R21). -/
  cnt  : Byte
  /-- `LAST[c]`, the source's `last_raw_mask` (R22). -/
  last : Byte
  /-- `COM[c]`, the source's `committed_mask` (R23). -/
  com  : Byte
  deriving DecidableEq, Repr

/-- A channel after reset (R32, R211): `CNT = 0` and `COM = 0x00` are the source's, `LAST = 0x00` is the spec's decision D8
(notes/assumptions/7.md). -/
def Channel.init : Channel := ⟨0, 0, 0⟩

/-- The Report Record `REC[0..9]`, byte offset 0 first (R53, R79). -/
abbrev Record := Vector Byte 10

/-- What one operation hands back to the caller (R75). -/
inductive Result where
  /-- The operation returns nothing: `NOP` and `RST`. -/
  | none
  /-- "No result is valid": a reserved encoding (R80). -/
  | notValid
  /-- The 8-bit mask of `DEC`, `STEP`, `TICK` or `RDC`, on the port `res_mask` (R84). -/
  | mask (m : Byte)
  /-- The ten bytes of `FRAME`, on the port `rec` (R84). -/
  | record (r : Record)
  deriving DecidableEq, Repr

/-- The whole state. `cfg` and `chans` are the block's; `result` and `pending` are the model's own, for what the caller has just
received and what it will present next. -/
structure State where
  /-- The configuration. No operation writes it (R27, R28, R57). -/
  cfg     : Config
  /-- The registers of channel 0, channel 1, ..., in channel order (R20). -/
  chans   : List Channel
  /-- The result of the operation just performed (R75, R84). No operation reads it, and every operation overwrites it, so the
  block keeps no record (R29). See notes/assumptions/3.md. -/
  result  : Result
  /-- The operations the caller is about to present, the next one first (R12, R24, R84). See notes/assumptions/1.md. -/
  pending : List Ports
  deriving DecidableEq, Repr

/-- The hardware raises no fault of any kind "in any state, on any operand, under any configuration" (R185, R196): the type has
no constructor, so that a run never ends in a fault. -/
inductive Fault
  deriving DecidableEq, Repr

/-- Why a step can be refused. -/
inductive Refusal where
  /-- Raised by `exec` for an instruction that has no meaning yet (none is left). Safe. -/
  | notModelled (mnemonic : String)
  /-- Raised by `step` when what the caller presents decodes to no operation: its channel number has more bits than the channel
  port (R74), so that no wire of the block can carry it. Safe: such a presentation does not exist. -/
  | undecodable (e : DecodeError)
  deriving DecidableEq, Repr

/-- The machine right after `RST` under a configuration, with nothing presented yet (R32, R211, R213). -/
def State.boot (cfg : Config) : State :=
  { cfg := cfg, chans := List.replicate cfg.nch Channel.init, result := .none, pending := [] }

/-- The machine right after reset: "the configuration is as supplied" (R211), and the spec leaves it open (R7). -/
def State.reset : State := State.boot Config.supplied

end Sys2Proof.Machine
end

