-- ==== Sys2Proof/Machine/Ops.lean ====
section
/-! DEFINITION. The named operations that the meanings share: reading the configuration (R26, R74), reading and writing one channel's registers
(R21 to R23), the channel operand with its reserved values (R74, R80), handing over a result (R75), the reset of every channel
(R174), and taking the next presentation (R24, R84). The hardware takes no exception and returns from none (R185, R190), so there
is no operation for either. -/

namespace Sys2Proof

/-- `TABLE[c]` (R26, R27). No operation asks for a channel `c >= NCH` (R80); the function is total for Lean's sake. -/
def Config.table (cfg : Config) (c : Nat) : BandTable := cfg.tables.getD c cfg.table0

/-- `CH_W = max(1, ceil(log2(NCH)))` (R74, D4), written as the number of bits of the largest channel number `NCH - 1`, and at
least 1 (`Laws.chW_eq` proves the two forms equal). -/
def Config.chW (cfg : Config) : Nat := Nat.log2 (cfg.nch - 1) + 1

namespace Machine

/-- The registers of channel `c` (R20). In a state with a register set for each channel every `c < NCH` has one; elsewhere the
read is of no channel of the block, and total for Lean's sake (notes/assumptions/14.md). -/
def State.chan (s : State) (c : Nat) : Channel := s.chans.getD c Channel.init

/-- `CNT[c]` (R21). -/
def State.cnt (s : State) (c : Nat) : Byte := (s.chan c).cnt

/-- `LAST[c]` (R22). -/
def State.last (s : State) (c : Nat) : Byte := (s.chan c).last

/-- `COM[c]` (R23). -/
def State.com (s : State) (c : Nat) : Byte := (s.chan c).com

/-- Write the three registers of channel `c` together (R55). -/
def State.setChan (s : State) (c : Nat) (r : Channel) : State := { s with chans := s.chans.set c r }

/-- Hand a result to the caller (R10's `result <- v`). -/
def State.answer (s : State) (r : Result) : State := { s with result := r }

/-- What the hardware does on a reserved encoding: "no register changes; no result is valid" (R80, decision D16). -/
def State.noValidResult (s : State) : State := s.answer .notValid

/-- The outcome of an operation on channel `ch`: what the operation does if the channel exists, and R80's reserved encoding if
`ch >= NCH`. -/
def State.onChannel (s : State) (ch : Nat) (done : State) : Host.Outcome State Fault Refusal :=
  if ch < s.cfg.nch then .next done else .next s.noValidResult

/-- Every channel to its reset values, the configuration not touched (R174, R32). -/
def State.resetChannels (s : State) : State := { s with chans := List.replicate s.cfg.nch Channel.init }

/-- The output `com_all` of R84: `COM[0]`, `COM[1]`, ... side by side, there to be read in every cycle (R173). -/
def State.comAll (s : State) : List Byte := s.chans.map (·.com)

/-- What stands on the ports now: the next operation the caller issues, or, when it issues none, the control vector of `NOP`,
"no call this cycle" (R24, R72, R84). -/
def State.presented (s : State) : Ports :=
  match s.pending with
  | [] => Ports.idle
  | p :: _ => p

/-- The state with the presented operation taken off the caller's list. -/
def State.taken (s : State) : State := { s with pending := s.pending.tail }

/-- The operation presented now, as the decoder reads it on this block's channel port (R72, R74). -/
def State.nextOp (s : State) : Except DecodeError Instr := decode s.cfg.chW s.presented

/-- The caller presents this next, before what it had in mind so far. -/
def State.present (s : State) (p : Ports) : State := { s with pending := p :: s.pending }

end Machine

end Sys2Proof
end

