-- ==== Sys2Proof/Machine/Operands.lean ====
section
/-! DEFINITION. The forms in which the operations read their operands (R74) and the formats of the data they read (R76, R77):
the Band Table that a channel operand selects, the word form of a table entry, and the predicates of R8 on tables. -/

namespace Sys2Proof

/-- Format `BTE20` (R76): `entry[15:0] = thr`, `entry[19:16] = map`. -/
def BandEntry.toWord (e : BandEntry) : BitVec 20 := (e.map ++ e.thr : BitVec (4 + 16))

/-- The entry stored in a `BTE20` word (R76). -/
def BandEntry.ofWord (w : BitVec 20) : BandEntry := ⟨w.extractLsb' 0 16, w.extractLsb' 16 4⟩

/-- `MapInDocRange(T)` of R8: every mapping is in the source's range `0..9`. -/
def BandTable.mapInDocRange (t : BandTable) : Bool := t.entries.all (fun e => decide (e.map.toNat ≤ 9))

/-- `MapUnique(T)` of R8: no two entries have the same mapping. -/
def BandTable.mapUnique (t : BandTable) : Bool := decide ((t.entries.map (·.map)).Nodup)

/-- `Sorted(T)` of R8: the thresholds never descend. -/
def BandTable.sorted (t : BandTable) : Bool :=
  decide (t.e0.thr.toNat ≤ t.e1.thr.toNat) && decide (t.e1.thr.toNat ≤ t.e2.thr.toNat)
    && decide (t.e2.thr.toNat ≤ t.e3.thr.toNat) && decide (t.e3.thr.toNat ≤ t.e4.thr.toNat)

/-- `MapFits(T)` of R8, the spec's own: every mapping has a bit in an 8-bit mask. -/
def BandTable.mapFits (t : BandTable) : Bool := t.entries.all (fun e => decide (e.map.toNat ≤ 7))

/-- `DocPre(T)` of R8: what the source's caller contract asks of a table. No operation evaluates it. -/
def BandTable.docPre (t : BandTable) : Bool := t.mapInDocRange && t.mapUnique && t.sorted

/-- Exactly one bit of the mask is set, or none: what format `MASK8` says of the result of `DEC` (R77). -/
def emptyOrOneHot (m : Byte) : Prop := m = 0 ∨ ∃ k, k < 8 ∧ m = BitVec.ofNat 8 (2 ^ k)

namespace Machine

/-- `T[ch]`, the table that the channel operand selects (R26, R74). -/
def State.bandTable (s : State) (ch : Nat) : BandTable := s.cfg.table ch

end Machine

end Sys2Proof
end

