-- ==== Sys2Proof/Machine/Band.lean ====
section
/-! DEFINITION. The band decoder unit `BAND` and the operation `DEC` (spec/40_band_decoder.md). -/

namespace Sys2Proof

/-- The five comparators of R101, in scan order: each fires when its threshold is strictly below the sample (R102). -/
def BandTable.cmp (t : BandTable) (sample : Half) : List Bool := t.entries.map (fun e => e.thr.ult sample)

/-- The length of the leading run of comparators that fired: a priority encoder, not a population count (R100, R106). -/
def leadingRun : List Bool → Nat
  | true :: rest => leadingRun rest + 1
  | false :: _ => 0
  | [] => 0

/-- `band` of R101, `0..5`. -/
def BandTable.band (t : BandTable) (sample : Half) : Nat := leadingRun (t.cmp sample)

/-- `trunc_8(1 << m)` (R78, R105): for `m` in `8..15` nothing is left of the one bit (the spec's decision D5;
notes/assumptions/8.md). -/
def oneHot8 (m : BitVec 4) : Byte := BitVec.ofNat 8 (2 ^ m.toNat)

/-- The source's `decode_band` (R101): the mapping of the entry at index `band` is read and sets one bit; `band = 5` indexes no
entry and gives the empty mask (R104, R110). -/
def BandTable.decodeBand (t : BandTable) (sample : Half) : Byte :=
  match t.entries[t.band sample]? with
  | some e => oneHot8 e.map
  | none => 0

namespace Machine

/-- `DEC ch, sample => mask` (R101). -/
def execDec (ch : Nat) (sample : Half) (s : State) : Host.Outcome State Fault Refusal :=
  s.onChannel ch (s.answer (.mask ((s.bandTable ch).decodeBand sample)))

end Machine

end Sys2Proof
end

