-- ==== Sys2Proof/Machine/Debounce.lean ====
section
/-! DEFINITION. The debounce engine unit `DEB` and the operations `STEP` and `TICK` (spec/41_debounce_engine.md). -/

namespace Sys2Proof.Machine

/-- One tick of a channel (R121), the source's three transition rules in their order: a raw mask that differs in any bit restarts
the run (R125); an equal one counts, and commits when the count just written is exactly 10 (R122); at 255 nothing is written
(R124). -/
def Channel.tick (r : Channel) (raw : Byte) : Channel :=
  if raw ≠ r.last then
    { r with last := raw, cnt := 1 }
  else if r.cnt ≠ countMax then
    if r.cnt + 1 = debounceN then
      { r with cnt := r.cnt + 1, com := r.last }
    else
      { r with cnt := r.cnt + 1 }
  else
    r

/-- The tick of channel `ch` on a raw mask, and `COM[ch]` as the writes leave it handed to the caller (R121, R123). -/
def State.debounce (s : State) (ch : Nat) (raw : Byte) : State :=
  let t := s.setChan ch ((s.chan ch).tick raw)
  t.answer (.mask (t.com ch))

/-- `STEP ch, raw_in => mask` (R121). -/
def execStep (ch : Nat) (raw : Byte) (s : State) : Host.Outcome State Fault Refusal :=
  s.onChannel ch (s.debounce ch raw)

/-- `TICK ch, sample => mask` (R126): the result of `DEC` is the raw mask of `STEP`. -/
def execTick (ch : Nat) (sample : Half) (s : State) : Host.Outcome State Fault Refusal :=
  s.onChannel ch (s.debounce ch ((s.bandTable ch).decodeBand sample))

end Sys2Proof.Machine
end

