-- ==== Sys2Proof/Machine/Framer.lean ====
section
/-! DEFINITION. The report framer unit `FRM` and the operation `FRAME` (spec/42_report_framer.md), with the layout of the
Report Record (spec/20_memory.md R52, R53; decisions D9 and D10 of the spec, notes/assumptions/9.md). -/

namespace Sys2Proof.Machine

/-- The clamp of R152: unsigned, strict, the same `MAX_AXIS` for each lane. -/
def clamp (maxAxis a : Half) : Half := if maxAxis.ult a then maxAxis else a

/-- Bits 7:0 of a field, the byte at its lower offset (R52). -/
def lowByte (v : Half) : Byte := v.extractLsb' 0 8

/-- Bits 15:8 of a field, the byte at its higher offset (R52). -/
def highByte (v : Half) : Byte := v.extractLsb' 8 8

/-- The ten bytes of the Report Record from its five fields (R53). -/
def packRecord (a0 a1 a2 a3 b : Half) : Record :=
  #v[lowByte a0, highByte a0, lowByte a1, highByte a1, lowByte a2, highByte a2, lowByte a3, highByte a3, lowByte b, highByte b]

/-- The field whose two bytes are given, lower offset first (R154). -/
def fieldOf (low high : Byte) : Half := (high ++ low : BitVec (8 + 8))

/-- Axis field `k` of a record, `{REC[2k+1], REC[2k]}` (R154). -/
def Record.axis (r : Record) : Fin 4 → Half
  | 0 => fieldOf r[0] r[1]
  | 1 => fieldOf r[2] r[3]
  | 2 => fieldOf r[4] r[5]
  | 3 => fieldOf r[6] r[7]

/-- The button field of a record, `{REC[9], REC[8]}` (R154). -/
def Record.buttons (r : Record) : Half := fieldOf r[8] r[9]

/-- The record on the 80-bit port `rec` (R84): `REC80 = {B, A3, A2, A1, A0}` (R53). -/
def Record.rec80 (r : Record) : BitVec 80 :=
  (r.buttons ++ r.axis 3 ++ r.axis 2 ++ r.axis 1 ++ r.axis 0 : BitVec (16 + 16 + 16 + 16 + 16))

/-- The source's `frame` (R151): the four axes clamped, the button field as given (R153), packed. -/
def frameRecord (maxAxis a0 a1 a2 a3 btn : Half) : Record :=
  packRecord (clamp maxAxis a0) (clamp maxAxis a1) (clamp maxAxis a2) (clamp maxAxis a3) btn

/-- `FRAME a0, a1, a2, a3, btn => REC` (R151). -/
def execFrame (a0 a1 a2 a3 btn : Half) (s : State) : Host.Outcome State Fault Refusal :=
  .next (s.answer (.record (frameRecord s.cfg.maxAxis a0 a1 a2 a3 btn)))

end Sys2Proof.Machine
end

