-- ==== Sys2Proof/Machine/System.lean ====
section
/-! DEFINITION. The system operations `NOP`, `RDC` and `RST` (spec/43_system_ops.md) and the two reserved control codes
(spec/30_encoding.md R80). -/

namespace Sys2Proof.Machine

/-- `NOP` (R171): no call is made; nothing is returned. -/
def execNop (s : State) : Host.Outcome State Fault Refusal := .next (s.answer .none)

/-- `RDC ch => mask` (R172): not a tick; the committed mask is returned and no register is written. -/
def execRdc (ch : Nat) (s : State) : Host.Outcome State Fault Refusal := s.onChannel ch (s.answer (.mask (s.com ch)))

/-- `RST` (R174): every channel to its reset values, whatever stands on `op` (decision D13). -/
def execRst (_op : BitVec 3) (s : State) : Host.Outcome State Fault Refusal := .next (s.resetChannels.answer .none)

/-- Control code 6 (R80): the hardware changes no register and drives no valid result (notes/assumptions/4.md). -/
def execReserved6 (s : State) : Host.Outcome State Fault Refusal := .next s.noValidResult

/-- Control code 7 (R80): the hardware changes no register and drives no valid result (notes/assumptions/4.md). -/
def execReserved7 (s : State) : Host.Outcome State Fault Refusal := .next s.noValidResult

end Sys2Proof.Machine
end

