-- ==== Sys2Proof/Machine/Dispatch.lean ====
section
/-! DEFINITION. One arm per operation of R72. -/

namespace Sys2Proof.Machine

def exec (i : Instr) (s : State) : Host.Outcome State Fault Refusal :=
  match i with
  | .nop => Sys2Proof.Machine.execNop s
  | .dec ch sample => Sys2Proof.Machine.execDec ch sample s
  | .step ch raw => Sys2Proof.Machine.execStep ch raw s
  | .tick ch sample => Sys2Proof.Machine.execTick ch sample s
  | .rdc ch => Sys2Proof.Machine.execRdc ch s
  | .frame a0 a1 a2 a3 btn => Sys2Proof.Machine.execFrame a0 a1 a2 a3 btn s
  | .reserved6 => Sys2Proof.Machine.execReserved6 s
  | .reserved7 => Sys2Proof.Machine.execReserved7 s
  | .rst op => Sys2Proof.Machine.execRst op s

end Sys2Proof.Machine
end

