-- ==== Sys2Proof/Machine/Step.lean ====
section
/-! DEFINITION. One step: the operation the caller presents is taken, decoded and performed, atomically (R11, R24, R55). There is
no program counter to advance (R24). -/

namespace Sys2Proof.Machine

/-- One step of the machine. -/
def step (s : State) : Host.Outcome State Fault Refusal :=
  match s.nextOp with
  | .ok i => exec i s.taken
  | .error e => .refused (.undecodable e)

/-- `s` with a row of spec/opcode_table.json presented next (notes/assumptions/1.md). -/
def State.withFetchWord (s : State) (nbits w : Nat) : State := s.present (Ports.ofWord nbits w)

end Sys2Proof.Machine
end

