-- ==== Sys2Proof/Machine/Flags.lean ====
section
/-! DEFINITION. Derived status (R25). The block has no status flag and no condition code; the source's "implicit" states are
functions of `CNT[c]` and are stored nowhere. -/

namespace Sys2Proof.Machine

/-- The phases of R25; `hold` is the spec's own name for the counts `11..254`. -/
inductive Phase where
  | unstable | justCommitted | hold | saturated
  deriving DecidableEq, Repr

/-- The phase of a run counter (R25). -/
def phaseOf (cnt : Byte) : Phase :=
  if cnt.toNat < 10 then .unstable
  else if cnt.toNat = 10 then .justCommitted
  else if cnt.toNat ≤ 254 then .hold
  else .saturated

/-- `phase(c)` (R25). No operation reads it. -/
def State.phase (s : State) (c : Nat) : Phase := phaseOf (s.cnt c)

end Sys2Proof.Machine
end

