-- ==== Sys2Proof/Safety.lean ====
section
/-! DEFINITION. The terms of the claims: the invariants of the states a run reaches (R33), sequences of operations and their
results (R12, R31, R217), the raw masks a channel has been ticked with (R128, R33), and the premises a claim about the original
device may need (R8, R214). -/

namespace Sys2Proof.Machine

/-- There is a register set for each channel, and no other (R20). -/
abbrev State.Consistent (s : State) : Prop := s.chans.length = s.cfg.nch

/-- What holds of a channel's registers in every state a run reaches: a count of 10 or more goes with a committed run
(R33 (b)), and a count of 0 with the reset values (R33 (a), R32). -/
abbrev Channel.Settled (r : Channel) : Prop := (10 ≤ r.cnt.toNat → r.com = r.last) ∧ (r.cnt = 0 → r = Channel.init)

/-- The invariant of the states a run reaches. -/
abbrev State.Inv (s : State) : Prop := s.Consistent ∧ ∀ r ∈ s.chans, r.Settled

/-- The operations in the order issued, each on the state the one before left (R11, R217). -/
def runOps : List Instr → State → Host.Outcome State Fault Refusal
  | [], s => .next s
  | i :: rest, s =>
    match exec i s with
    | .next t => runOps rest t
    | .fault f => .fault f
    | .refused r => .refused r

/-- What the caller receives from a sequence of operations, in order (R31: "a claim about results must be stated over sequences
of operations"). -/
def opResults : List Instr → State → List Result
  | [], _ => []
  | i :: rest, s =>
    match exec i s with
    | .next t => t.result :: opResults rest t
    | .fault _ => []
    | .refused _ => []

/-- The operation is `RST` (R174). -/
def isReset : Instr → Bool
  | .rst _ => true
  | _ => false

/-- The raw mask with which an operation ticks channel `c`, if it is a tick of that channel (R15, R126, R135). -/
def rawOn (cfg : Config) (c : Nat) : Instr → Option Byte
  | .step ch raw => if ch = c then some raw else none
  | .tick ch sample => if ch = c then some ((cfg.table ch).decodeBand sample) else none
  | _ => none

/-- How many ticks of channel `c` a sequence of operations holds. -/
def ticksOn (cfg : Config) (c : Nat) (ops : List Instr) : Nat := ops.countP (fun i => (rawOn cfg c i).isSome)

/-- A channel's raw masks since the last reset, the most recent first, after one more operation. -/
def extendHistory (cfg : Config) (c : Nat) (h : List Byte) (i : Instr) : List Byte :=
  if isReset i then []
  else
    match rawOn cfg c i with
    | some raw => raw :: h
    | none => h

/-- The raw masks of the ticks of channel `c` since the last `RST` of a sequence of operations, the most recent first (R128). -/
def rawHistory (cfg : Config) (c : Nat) (ops : List Instr) : List Byte := ops.foldl (extendHistory cfg c) []

/-- `L` of R128: how many of the most recent raw masks are all equal. -/
def runLength : List Byte → Nat
  | [] => 0
  | raw :: earlier => (earlier.takeWhile (· == raw)).length + 1

/-- A channel's registers are those that a history of raw masks, the most recent first, leaves from reset: `CNT` is the length of
the current run, saturated (R128), `LAST` the most recent raw mask (at reset 0x00, decision D8), and `COM` is 0x00 or a raw mask
of ten consecutive ticks (R33 (c)). -/
structure Channel.AccountedBy (r : Channel) (h : List Byte) : Prop where
  cnt  : r.cnt.toNat = min (runLength h) 255
  last : r.last = h.headD 0
  com  : r.com = 0 ∨ ∃ later earlier, h = later ++ List.replicate 10 r.com ++ earlier

/-- No operation of the sequence is one of R80's reserved encodings. The spec asks a model to refuse those; this model gives them
the hardware's behaviour (notes/assumptions/4.md and 5.md), and a claim that must not rest on decision D16 takes this premise. -/
def LegalRun (cfg : Config) (ops : List Instr) : Prop := ∀ i ∈ ops, i.legal cfg.nch = true

/-- Every table of the configuration meets the source's caller contract and fits an 8-bit mask: the premise that R8 asks of a
claim about the original device. -/
def DeviceLike (cfg : Config) : Prop := ∀ t ∈ cfg.tables, t.docPre = true ∧ t.mapFits = true

end Sys2Proof.Machine
end

