-- ==== Sys2Proof/Certificates/Slice0/Obligations.lean ====
section
/-! DEFINITION. The statements for the provers. A docstring names the rule of spec/ a statement formalises; "the spec's own
decision" marks a clause that rests on spec/92_eei_decisions.md and not on the source. -/

section

open Sys2Proof Sys2Proof.Machine

/-! ### Encoding -/

/-- R72, R74 (decision D2 of the spec): decoding what the encoder presents gives the operation back, with every operand. -/
def Obligations.DecodeOfEncodeIsTheOperation : Prop :=
  ∀ (w : Nat) (i : Instr), i.wellFormed w = true → decode w (encode i) = .ok i

/-- R72, R74 (D2, D3): what decodes is well formed, and encoding it gives the presentation back on the control vector and on
every port the operation reads. -/
def Obligations.EncodeOfDecodedIsThePresentation : Prop :=
  ∀ (w : Nat) (p : Ports) (i : Instr), decode w p = .ok i →
    i.wellFormed w = true ∧
    encode i =
      match i with
      | .nop | .reserved6 | .reserved7 | .rst _ => { Ports.idle with ctl := p.ctl }
      | .dec _ _ | .tick _ _ => { Ports.idle with ctl := p.ctl, ch := p.ch, sample := p.sample }
      | .step _ _ => { Ports.idle with ctl := p.ctl, ch := p.ch, rawIn := p.rawIn }
      | .rdc _ => { Ports.idle with ctl := p.ctl, ch := p.ch }
      | .frame _ _ _ _ _ =>
        { Ports.idle with ctl := p.ctl, a0 := p.a0, a1 := p.a1, a2 := p.a2, a3 := p.a3, btn := p.btn }

/-- R72 (D2): the sixteen control vectors are all accounted for, and `rst` wins over `op` (R174, D13). -/
def Obligations.EveryControlVectorSelectsItsRow : Prop :=
  ∀ (w : Nat) (p : Ports), p.ch < 2 ^ w → 1 ≤ w →
    (p.ctl = 0x0 → decode w p = .ok .nop) ∧
    (p.ctl = 0x1 → decode w p = .ok (.dec p.ch p.sample)) ∧
    (p.ctl = 0x2 → decode w p = .ok (.step p.ch p.rawIn)) ∧
    (p.ctl = 0x3 → decode w p = .ok (.tick p.ch p.sample)) ∧
    (p.ctl = 0x4 → decode w p = .ok (.rdc p.ch)) ∧
    (p.ctl = 0x5 → decode w p = .ok (.frame p.a0 p.a1 p.a2 p.a3 p.btn)) ∧
    (p.ctl = 0x6 → decode w p = .ok .reserved6) ∧
    (p.ctl = 0x7 → decode w p = .ok .reserved7) ∧
    (p.ctl.getLsbD 3 = true → ∃ op, decode w p = .ok (.rst op))

/-- R74 (D3): the value on an operand port that the operation does not read has no effect. -/
def Obligations.UnreadOperandPortsHaveNoEffect : Prop :=
  ∀ (w : Nat) (p q : Ports), p.ctl = q.ctl →
    (p.ctl = 0x1 ∨ p.ctl = 0x2 ∨ p.ctl = 0x3 ∨ p.ctl = 0x4 → p.ch = q.ch) →
    (p.ctl = 0x1 ∨ p.ctl = 0x3 → p.sample = q.sample) →
    (p.ctl = 0x2 → p.rawIn = q.rawIn) →
    (p.ctl = 0x5 → p.a0 = q.a0 ∧ p.a1 = q.a1 ∧ p.a2 = q.a2 ∧ p.a3 = q.a3 ∧ p.btn = q.btn) →
    decode w p = decode w q

/-- R72 (D2): the rows' words, written out from the table's encodings, decode to the rows' operations. -/
def Obligations.WrittenWordsDecodeToTheirRows : Prop :=
  decodeTableWord 8 0b0000 = some .nop ∧
  decodeTableWord 8 0b0001 = some (.dec 0 0) ∧
  decodeTableWord 8 0b0010 = some (.step 0 0) ∧
  decodeTableWord 8 0b0101 = some (.frame 0 0 0 0 0) ∧
  decodeTableWord 8 0b0110 = some .reserved6 ∧
  decodeTableWord 8 0b1010 = some (.rst 0b010)

/-- R74, R80 (D3, D4): an operation that is no reserved encoding can be presented on the ports of every block. -/
def Obligations.EveryLegalOperationCanBePresented : Prop :=
  ∀ (cfg : Config) (i : Instr), i.legal cfg.nch = true → i.wellFormed cfg.chW = true

/-- R76 (the spec's own packing, D6): the word form of a table entry and the entry determine each other. -/
def Obligations.TableEntryWordAndEntryAgree : Prop :=
  (∀ e : BandEntry, BandEntry.ofWord e.toWord = e) ∧ (∀ w : BitVec 20, (BandEntry.ofWord w).toWord = w)

/-! ### The step -/

/-- R11, R24, R84: a step performs the presented operation on the state with the presentation taken off the caller's list
(the list is the model's, notes/assumptions/1.md). -/
def Obligations.StepRunsThePresentedOperation : Prop :=
  ∀ (s : State) (p : Ports) (rest : List Ports) (i : Instr),
    s.pending = p :: rest → decode s.cfg.chW p = .ok i → step s = exec i { s with pending := rest }

/-- R171, R24: when the caller presents nothing, the step is a `NOP` (the model's convention, notes/assumptions/1.md). -/
def Obligations.StepWithNothingPresentedIsNop : Prop :=
  ∀ s : State, s.pending = [] → step s = exec .nop s

/-- R185, R74: a step never faults, and is refused exactly on a presentation that no channel port can carry. Where it is refused
and where it is not are the model's choices: a number wider than the port is refused by notes/assumptions/6.md, while control
codes 6 and 7 and a channel number `NCH <= ch < 2^CH_W` complete by notes/assumptions/4.md and 5.md (the hardware's column of
R80; the spec's list of a model's refusals holds them). -/
def Obligations.StepIsRefusedOnlyOnAnUnpresentableChannel : Prop :=
  ∀ s : State,
    (s.pending = [] → ∃ t, step s = .next t) ∧
    ∀ (p : Ports) (rest : List Ports), s.pending = p :: rest →
      if (p.ctl = 0x1 ∨ p.ctl = 0x2 ∨ p.ctl = 0x3 ∨ p.ctl = 0x4) ∧ 2 ^ s.cfg.chW ≤ p.ch then
        step s = .refused (.undecodable .channelTooWide)
      else ∃ t, step s = .next t

/-- R12, R58, R217: running the machine over a presented list of operations is performing them one after the other in the order
issued. -/
def Obligations.PresentedRunIsTheOperationSequence : Prop :=
  ∀ (s : State) (ops : List Instr), (∀ i ∈ ops, i.wellFormed s.cfg.chW = true) →
    (Host.Core.run Sys2Proof.core ops.length ({ s with pending := ops.map encode } : State) :
      Host.Outcome State Fault Refusal) = runOps ops { s with pending := [] }

/-! ### System operations -/

/-- R171: `NOP` completes and every register of every channel holds its value. -/
def Obligations.NopCompletesAndHoldsEveryRegister : Prop :=
  ∀ s : State, exec .nop s = .next { s with result := .none }

/-- R172, R173, R23: `RDC` completes with the committed mask and writes no register; `com_all` shows the same mask. -/
def Obligations.RdcReturnsTheCommittedMask : Prop :=
  ∀ (s : State) (ch : Nat), s.Consistent → ch < s.cfg.nch →
    exec (.rdc ch) s = .next { s with result := .mask (s.com ch) } ∧ s.comAll[ch]? = some (s.com ch)

/-- R174 (the mechanism, its priority and the value of `LAST` are the spec's own decisions D13 and D8): `RST` completes whatever
stands on `op`, sets the three registers of every channel to zero, and leaves the configuration alone. -/
def Obligations.RstInitialisesEveryChannel : Prop :=
  ∀ (op : BitVec 3) (s : State), ∃ t, exec (.rst op) s = .next t ∧
    t.result = .none ∧ t.cfg = s.cfg ∧ t.pending = s.pending ∧ t.chans.length = s.cfg.nch ∧
    ∀ c, c < s.cfg.nch → t.cnt c = 0 ∧ t.last c = 0 ∧ t.com c = 0

/-- R80 (decision D16; that the model completes here, where the spec advises a model to refuse, is its choice,
notes/assumptions/4.md): control codes 6 and 7 change no register and give no valid result. -/
def Obligations.ReservedCodesChangeNothing : Prop :=
  ∀ s : State, exec .reserved6 s = .next { s with result := .notValid } ∧
    exec .reserved7 s = .next { s with result := .notValid }

/-- R80 (decision D16; the model's choice as above, notes/assumptions/5.md): an operation on a channel number `>= NCH` changes no
register and gives no valid result. -/
def Obligations.ReservedChannelsChangeNothing : Prop :=
  ∀ (s : State) (ch : Nat) (sample : Half) (raw : Byte), s.cfg.nch ≤ ch →
    exec (.dec ch sample) s = .next { s with result := .notValid } ∧
    exec (.step ch raw) s = .next { s with result := .notValid } ∧
    exec (.tick ch sample) s = .next { s with result := .notValid } ∧
    exec (.rdc ch) s = .next { s with result := .notValid }

/-- R211, R32 (`LAST` by decision D8): the reset state under a configuration; the machine starts in it, under the configuration
it is supplied with (the model's choice of an unknown one, notes/assumptions/2.md). -/
def Obligations.ResetStateHoldsTheResetValues : Prop :=
  State.reset = State.boot Config.supplied ∧
  ∀ (cfg : Config), (State.boot cfg).cfg = cfg ∧ (State.boot cfg).chans.length = cfg.nch ∧
    ∀ c, c < cfg.nch →
      (State.boot cfg).cnt c = 0 ∧ (State.boot cfg).last c = 0 ∧ (State.boot cfg).com c = 0 ∧
      (State.boot cfg).phase c = .unstable

/-! ### The band decoder -/

/-- R101 (the cut to 8 bits is decision D5): `DEC` completes, writes nothing, and returns the mapped bit of the first entry whose
threshold the sample does not exceed, or the empty mask when it exceeds all five. -/
def Obligations.DecReturnsTheMappedBitOfTheBand : Prop :=
  ∀ (s : State) (ch : Nat) (sample : Half), ch < s.cfg.nch →
    ∃ m, exec (.dec ch sample) s = .next { s with result := .mask m } ∧
      (∀ k : Fin 5, (∀ j, j < k → ((s.cfg.table ch).entry j).thr.toNat < sample.toNat) →
        sample.toNat ≤ ((s.cfg.table ch).entry k).thr.toNat →
        m = BitVec.ofNat 8 (2 ^ ((s.cfg.table ch).entry k).map.toNat)) ∧
      ((∀ k : Fin 5, ((s.cfg.table ch).entry k).thr.toNat < sample.toNat) → m = 0)

/-- R102: comparator `i` fires exactly when its threshold is below the sample as an unsigned number; equality does not fire it. -/
def Obligations.ComparatorsAreUnsignedAndStrict : Prop :=
  ∀ (t : BandTable) (sample : Half) (i : Fin 5),
    (t.cmp sample)[i.val]? = some (decide ((t.entry i).thr.toNat < sample.toNat)) ∧
    ((t.entry i).thr = sample → (t.cmp sample)[i.val]? = some false)

/-- R104: a sample strictly above all five thresholds gives the empty mask, whatever the mappings. -/
def Obligations.SampleAboveEveryThresholdGivesTheEmptyMask : Prop :=
  ∀ (s : State) (ch : Nat) (sample : Half), ch < s.cfg.nch →
    (∀ k : Fin 5, ((s.cfg.table ch).entry k).thr.toNat < sample.toNat) →
    (s.cfg.table ch).band sample = 5 ∧ exec (.dec ch sample) s = .next { s with result := .mask 0 }

/-- R105, R78 (decision D5): a mapping in `0..7` sets exactly its own bit, a mapping in `8..15` sets none. -/
def Obligations.MappingSetsItsOwnBitOrNone : Prop :=
  ∀ m : BitVec 4, (m.toNat < 8 → ∀ k, k < 8 → (oneHot8 m).getLsbD k = decide (k = m.toNat)) ∧
    (8 ≤ m.toNat → oneHot8 m = 0)

/-- R103: with a sorted table the band is the number of thresholds below the sample, and the bands are the intervals between
the thresholds, each with its upper end. -/
def Obligations.SortedBandsAreTheIntervals : Prop :=
  ∀ (t : BandTable) (sample : Half), t.sorted = true →
    t.band sample = (t.cmp sample).count true ∧
    (t.band sample = 0 ↔ sample.toNat ≤ t.e0.thr.toNat) ∧
    (t.band sample = 1 ↔ t.e0.thr.toNat < sample.toNat ∧ sample.toNat ≤ t.e1.thr.toNat) ∧
    (t.band sample = 2 ↔ t.e1.thr.toNat < sample.toNat ∧ sample.toNat ≤ t.e2.thr.toNat) ∧
    (t.band sample = 3 ↔ t.e2.thr.toNat < sample.toNat ∧ sample.toNat ≤ t.e3.thr.toNat) ∧
    (t.band sample = 4 ↔ t.e3.thr.toNat < sample.toNat ∧ sample.toNat ≤ t.e4.thr.toNat) ∧
    (t.band sample = 5 ↔ t.e4.thr.toNat < sample.toNat)

/-- R108 (c): for every table, sorted or not, a larger sample is in no lower band. -/
def Obligations.BandIsMonotoneInTheSample : Prop :=
  ∀ (t : BandTable) (a b : Half), a.toNat ≤ b.toNat → t.band a ≤ t.band b

/-- R108 (e): when every mapping has a bit in the mask, the empty mask is given by exactly the samples above every threshold. -/
def Obligations.EmptyMaskMeansBandFive : Prop :=
  ∀ (t : BandTable) (sample : Half), t.mapFits = true →
    (t.decodeBand sample = 0 ↔ t.band sample = 5) ∧
    (t.decodeBand sample = 0 ↔ ∀ k : Fin 5, (t.entry k).thr.toNat < sample.toNat)

/-- R77, R107 (g): at most one bit is set by a single decode, for every table and every sample. -/
def Obligations.DecodedMaskIsEmptyOrOneHot : Prop :=
  ∀ (t : BandTable) (sample : Half), emptyOrOneHot (t.decodeBand sample)

/-- R107 (a) to (c), (e): sample 0 is in band 0; a threshold of 65535 bounds the band of every sample by its index; the top sample
is in the band of the first such threshold; with five equal thresholds only bands 0 and 5 are decoded. -/
def Obligations.BandAtTheEndsOfTheRange : Prop :=
  ∀ t : BandTable,
    t.band 0 = 0 ∧
    (∀ (i : Fin 5) (sample : Half), (t.entry i).thr.toNat = 65535 → t.band sample ≤ i.val) ∧
    (∀ i : Fin 5, (t.entry i).thr.toNat = 65535 → (∀ j, j < i → (t.entry j).thr.toNat ≠ 65535) →
      t.band 65535 = i.val) ∧
    ((∀ i : Fin 5, (t.entry i).thr.toNat ≠ 65535) → t.band 65535 = 5) ∧
    (∀ (x sample : Half), (∀ i : Fin 5, (t.entry i).thr = x) →
      t.band sample = if sample.toNat ≤ x.toNat then 0 else 5)

/-! ### The debounce engine -/

/-- R121, R127: `STEP` completes by exactly one of the three rules; the result is the committed mask after the writes; every other
channel, the configuration and what the caller has in mind stay as they were. -/
def Obligations.StepFollowsTheTransitionRules : Prop :=
  ∀ (s : State) (ch : Nat) (raw : Byte), s.Consistent → ch < s.cfg.nch →
    ∃ t, exec (.step ch raw) s = .next t ∧
      (raw ≠ s.last ch → t.last ch = raw ∧ t.cnt ch = 1 ∧ t.com ch = s.com ch) ∧
      (raw = s.last ch → (s.cnt ch).toNat ≠ 255 →
        t.last ch = s.last ch ∧ (t.cnt ch).toNat = (s.cnt ch).toNat + 1 ∧
        t.com ch = if (s.cnt ch).toNat = 9 then s.last ch else s.com ch) ∧
      (raw = s.last ch → (s.cnt ch).toNat = 255 → t.chan ch = s.chan ch) ∧
      t.result = .mask (t.com ch) ∧
      (∀ d, d ≠ ch → t.chan d = s.chan d) ∧
      t.chans.length = s.chans.length ∧ t.cfg = s.cfg ∧ t.pending = s.pending

/-- R127, R25 (the name of the phase `hold` is the spec's own): the phase after a tick, line by line of the transition table. -/
def Obligations.PhaseAfterATick : Prop :=
  ∀ (s t : State) (ch : Nat) (raw : Byte), s.Consistent → ch < s.cfg.nch → exec (.step ch raw) s = .next t →
    t.phase ch =
      if raw ≠ s.last ch then .unstable
      else if (s.cnt ch).toNat ≤ 8 then .unstable
      else if (s.cnt ch).toNat = 9 then .justCommitted
      else if (s.cnt ch).toNat ≤ 253 then .hold
      else .saturated

/-- R122: `COM[c]` changes, but for `RST`, only on a tick of `c` whose raw mask is the last one and that brings the count from 9 to
10, and it becomes that raw mask. -/
def Obligations.CommitHappensOnlyAtTheCountOfTen : Prop :=
  ∀ (i : Instr) (s t : State) (c : Nat), s.Consistent → c < s.cfg.nch → exec i s = .next t → isReset i = false →
    t.com c ≠ s.com c →
    rawOn s.cfg c i = some (s.last c) ∧ (s.cnt c).toNat = 9 ∧ (t.cnt c).toNat = 10 ∧ t.com c = s.last c

/-- R124: the counter of an equal raw mask is `min(CNT + 1, 255)`; from 255 nothing is written; it leaves 255 only for 1, on a
differing raw mask, or for 0, on `RST`. -/
def Obligations.CounterSaturatesAt255 : Prop :=
  (∀ (s t : State) (ch : Nat) (raw : Byte), s.Consistent → ch < s.cfg.nch → exec (.step ch raw) s = .next t →
    raw = s.last ch →
    (t.cnt ch).toNat = min ((s.cnt ch).toNat + 1) 255 ∧ ((s.cnt ch).toNat = 255 → t.chans = s.chans)) ∧
  (∀ (i : Instr) (s t : State) (c : Nat), s.Consistent → c < s.cfg.nch → exec i s = .next t →
    (s.cnt c).toNat = 255 → (t.cnt c).toNat ≠ 255 →
    (isReset i = true ∧ (t.cnt c).toNat = 0) ∨
    (∃ raw, rawOn s.cfg c i = some raw ∧ raw ≠ s.last c ∧ (t.cnt c).toNat = 1))

/-- R125: a raw mask that differs from the last one in any of the 8 bits restarts the run and is stored whole; one that agrees in
all 8 does not. -/
def Obligations.ComparisonIsOverAllEightBits : Prop :=
  ∀ (s t : State) (ch : Nat) (raw : Byte), s.Consistent → ch < s.cfg.nch → exec (.step ch raw) s = .next t →
    ((∃ k, k < 8 ∧ raw.getLsbD k ≠ (s.last ch).getLsbD k) →
      (t.cnt ch).toNat = 1 ∧ ∀ k, k < 8 → (t.last ch).getLsbD k = raw.getLsbD k) ∧
    ((∀ k, k < 8 → raw.getLsbD k = (s.last ch).getLsbD k) →
      (t.cnt ch).toNat = min ((s.cnt ch).toNat + 1) 255 ∧ t.last ch = s.last ch)

/-- R123: on every call, whichever branch is taken, the result of `STEP` is the committed mask after the operation's own writes. -/
def Obligations.StepReturnsTheCommittedMaskAfterItsWrites : Prop :=
  ∀ (s : State) (ch : Nat) (raw : Byte), s.Consistent → ch < s.cfg.nch →
    ∃ t, exec (.step ch raw) s = .next t ∧ t.result = .mask (t.com ch) ∧
      (raw = s.last ch → (s.cnt ch).toNat = 9 → t.result = .mask raw) ∧
      (¬ (raw = s.last ch ∧ (s.cnt ch).toNat = 9) → t.result = .mask (s.com ch))

/-- R126, R83: `TICK` completes, and is `DEC` with its result given to `STEP` on the same channel, in state and in result. -/
def Obligations.TickIsDecThenStep : Prop :=
  ∀ (s : State) (ch : Nat) (sample : Half), ch < s.cfg.nch →
    ∃ u m t, exec (.dec ch sample) s = .next u ∧ u.result = .mask m ∧
      exec (.step ch m) u = .next t ∧ exec (.tick ch sample) s = .next t

/-! ### The report framer -/

/-- R151, R53 (byte order and field order by decisions D9 and D10): `FRAME` completes, writes no register, and returns the ten
bytes of the four clamped axes and the buttons, low byte first. -/
def Obligations.FrameReturnsTheTenBytes : Prop :=
  ∀ (s : State) (a0 a1 a2 a3 btn : Half),
    ∃ r : Record, exec (.frame a0 a1 a2 a3 btn) s = .next { s with result := .record r } ∧
      r[0].toNat = min a0.toNat s.cfg.maxAxis.toNat % 256 ∧ r[1].toNat = min a0.toNat s.cfg.maxAxis.toNat / 256 ∧
      r[2].toNat = min a1.toNat s.cfg.maxAxis.toNat % 256 ∧ r[3].toNat = min a1.toNat s.cfg.maxAxis.toNat / 256 ∧
      r[4].toNat = min a2.toNat s.cfg.maxAxis.toNat % 256 ∧ r[5].toNat = min a2.toNat s.cfg.maxAxis.toNat / 256 ∧
      r[6].toNat = min a3.toNat s.cfg.maxAxis.toNat % 256 ∧ r[7].toNat = min a3.toNat s.cfg.maxAxis.toNat / 256 ∧
      r[8].toNat = btn.toNat % 256 ∧ r[9].toNat = btn.toNat / 256

/-- R152: each axis field is the unsigned minimum of its own operand and `MAX_AXIS`. -/
def Obligations.EachAxisIsClampedToMaxAxis : Prop :=
  ∀ (s : State) (a0 a1 a2 a3 btn : Half),
    ∃ (t : State) (r : Record), exec (.frame a0 a1 a2 a3 btn) s = .next t ∧ t.result = .record r ∧
      (r.axis 0).toNat = min a0.toNat s.cfg.maxAxis.toNat ∧
      (r.axis 1).toNat = min a1.toNat s.cfg.maxAxis.toNat ∧
      (r.axis 2).toNat = min a2.toNat s.cfg.maxAxis.toNat ∧
      (r.axis 3).toNat = min a3.toNat s.cfg.maxAxis.toNat

/-- R153: the button field is neither clamped, masked nor otherwise changed. -/
def Obligations.ButtonsPassUnchanged : Prop :=
  ∀ (s : State) (a0 a1 a2 a3 btn : Half),
    ∃ (t : State) (r : Record), exec (.frame a0 a1 a2 a3 btn) s = .next t ∧ t.result = .record r ∧ r.buttons = btn

/-- R154, R53 (D9, D10): packing adds nothing and drops nothing, unpacking is its exact inverse, and on the 80-bit port
byte `k` of the record stands on bits `8*k+7 : 8*k`. -/
def Obligations.PackingAndUnpackingAreInverse : Prop :=
  (∀ a0 a1 a2 a3 b : Half,
    (packRecord a0 a1 a2 a3 b).axis 0 = a0 ∧ (packRecord a0 a1 a2 a3 b).axis 1 = a1 ∧
    (packRecord a0 a1 a2 a3 b).axis 2 = a2 ∧ (packRecord a0 a1 a2 a3 b).axis 3 = a3 ∧
    (packRecord a0 a1 a2 a3 b).buttons = b) ∧
  (∀ r : Record, packRecord (r.axis 0) (r.axis 1) (r.axis 2) (r.axis 3) r.buttons = r) ∧
  (∀ (r : Record) (k : Fin 10), r.rec80.extractLsb' (8 * k.val) 8 = r[k.val])

/-- R155: every axis field is at most `MAX_AXIS`; framing the fields of a record gives the same record, whatever came between; the
clamp is monotone. -/
def Obligations.FramingAgainChangesNothing : Prop :=
  (∀ (s s' : State) (a0 a1 a2 a3 btn : Half), s'.cfg.maxAxis = s.cfg.maxAxis →
    ∃ (r : Record), exec (.frame a0 a1 a2 a3 btn) s = .next { s with result := .record r } ∧
      (∀ k, (r.axis k).toNat ≤ s.cfg.maxAxis.toNat) ∧
      exec (.frame (r.axis 0) (r.axis 1) (r.axis 2) (r.axis 3) r.buttons) s' =
        .next { s' with result := .record r }) ∧
  (∀ m a b : Half, a.toNat ≤ b.toNat → (clamp m a).toNat ≤ (clamp m b).toNat)

/-- R156: `MAX_AXIS = 65535` passes every axis, `MAX_AXIS = 0` makes every axis 0. -/
def Obligations.ClampAtTheEndsOfMaxAxis : Prop :=
  ∀ a : Half, clamp 65535 a = a ∧ clamp 0 a = 0 ∧
    ∀ m : Half, (a.toNat ≤ m.toNat → clamp m a = a) ∧ (m.toNat < a.toNat → clamp m a = m)

/-! ### The whole machine -/

/-- R185, R196: no operation faults or is refused, in any state, on any operand, under any configuration (on R80's reserved
encodings this is the model's choice, notes/assumptions/4.md and 5.md). -/
def Obligations.EveryOperationCompletes : Prop :=
  ∀ (i : Instr) (s : State), ∃ t, exec i s = .next t ∧ t.pending = s.pending

/-- R27, R28, R57, R61: no operation, no step and no run of steps writes the configuration. -/
def Obligations.ConfigurationIsNeverWritten : Prop :=
  (∀ (i : Instr) (s t : State), exec i s = .next t → t.cfg = s.cfg) ∧
  (∀ (n : Nat) (s t : State),
    (Host.Core.run Sys2Proof.core n s : Host.Outcome State Fault Refusal) = .next t → t.cfg = s.cfg)

/-- R175, R20: but for `RST`, the registers of a channel are written only by `STEP` and `TICK` on that channel. -/
def Obligations.OnlyTicksAndResetWriteRegisters : Prop :=
  ∀ (i : Instr) (s t : State) (c : Nat), exec i s = .next t → isReset i = false → t.chan c ≠ s.chan c →
    (∃ raw, i = .step c raw) ∨ (∃ sample, i = .tick c sample)

/-- R175, R31, R108 (d), R155 (d): the result of an operation depends on nothing but what the access table lets it read. -/
def Obligations.ResultsDependOnlyOnWhatIsRead : Prop :=
  ∀ (i : Instr) (s s' t t' : State), s.Consistent → s'.Consistent → s.cfg.nch = s'.cfg.nch →
    exec i s = .next t → exec i s' = .next t' →
    (match i with
      | .dec ch _ => s.cfg.table ch = s'.cfg.table ch
      | .step ch _ => s.chan ch = s'.chan ch
      | .tick ch _ => s.chan ch = s'.chan ch ∧ s.cfg.table ch = s'.cfg.table ch
      | .rdc ch => s.com ch = s'.com ch
      | .frame _ _ _ _ _ => s.cfg.maxAxis = s'.cfg.maxAxis
      | .nop | .reserved6 | .reserved7 | .rst _ => True) →
    t.result = t'.result

/-- R29, R20 (the field that carries results is the model's, notes/assumptions/3.md): no operation reads an earlier result, so the
block keeps no copy of a record. -/
def Obligations.EarlierResultsAreNeverRead : Prop :=
  (∀ (i : Instr) (s : State) (r : Result), exec i { s with result := r } = exec i s) ∧
  (∀ (s : State) (r : Result), step { s with result := r } = step s)

/-- R33, R32: the invariant holds in the reset state, under every configuration. -/
def Obligations.InvariantHoldsAtReset : Prop :=
  State.reset.Inv ∧ ∀ cfg : Config, (State.boot cfg).Inv

/-- R33 (a), (b), R20: every step from a state that meets the invariant gives a state that meets it: a register set for each
channel, a committed run at every count of 10 or more, the reset values at a count of 0. -/
def Obligations.EveryStepKeepsTheInvariant : Prop :=
  ∀ s t : State, s.Inv → step s = .next t → t.Inv

/-- R128, R33 (a): after any sequence of operations from reset, the counter is the length of the current run of equal raw masks
since the last reset, saturated at 255, and `LAST` is the most recent raw mask (0x00, decision D8, when there was none). That a
sequence which holds R80's reserved encodings completes at all is the model's choice, notes/assumptions/4.md and 5.md. -/
def Obligations.CounterIsTheSaturatedRunLength : Prop :=
  ∀ (cfg : Config) (ops : List Instr) (c : Nat), c < cfg.nch →
    ∃ t, runOps ops (State.boot cfg) = .next t ∧
      (t.cnt c).toNat = min (runLength (rawHistory cfg c ops)) 255 ∧
      t.last c = (rawHistory cfg c ops).headD 0

/-- R33 (c): the committed mask is 0x00 or was the raw mask of ten consecutive ticks of the channel since the last reset. -/
def Obligations.CommittedMaskWasSeenTenTimesInARow : Prop :=
  ∀ (cfg : Config) (ops : List Instr) (c : Nat) (t : State), c < cfg.nch → runOps ops (State.boot cfg) = .next t →
    t.com c = 0 ∨
      ∃ later earlier, rawHistory cfg c ops = later ++ List.replicate 10 (t.com c) ++ earlier

/-- R33 (d), R218: after an operation that changes `COM[c]`, nine further ticks of the channel cannot change it again. -/
def Obligations.CommitsOfDifferentValuesAreTenTicksApart : Prop :=
  ∀ (i : Instr) (ops : List Instr) (s u t : State) (c : Nat), s.Consistent → c < s.cfg.nch →
    isReset i = false → exec i s = .next u → u.com c ≠ s.com c →
    (∀ j ∈ ops, isReset j = false) → ticksOn s.cfg c ops ≤ 9 → runOps ops u = .next t → t.com c = u.com c

/-- R129 (a), (c), R133: the same raw mask on `n` ticks from reset commits exactly once, at tick 10: the results are 0x00 for the
first nine and the raw mask from the tenth on, for every `n`, and the counter ends at `min(n, 255)`. -/
def Obligations.SteadyInputFromResetCommitsOnceAtTickTen : Prop :=
  ∀ (cfg : Config) (c : Nat) (raw : Byte) (n : Nat), c < cfg.nch →
    ∃ t, runOps (List.replicate n (.step c raw)) (State.boot cfg) = .next t ∧
      (t.cnt c).toNat = min n 255 ∧
      opResults (List.replicate n (.step c raw)) (State.boot cfg) =
        List.replicate (min n 9) (.mask 0) ++ List.replicate (n - 9) (.mask raw)

/-- R130: a change of the raw mask is committed at the tenth tick of the new run and not before, from any state. -/
def Obligations.ChangeIsCommittedAtItsTenthTick : Prop :=
  ∀ (s : State) (ch : Nat) (raw : Byte) (n : Nat), s.Consistent → ch < s.cfg.nch → raw ≠ s.last ch →
    ∃ t, runOps (List.replicate n (.step ch raw)) s = .next t ∧
      t.com ch = if n < 10 then s.com ch else raw

/-- R131: a glitch of one tick after a commit is invisible in every result, and the run restarts. -/
def Obligations.GlitchAfterACommitIsInvisible : Prop :=
  ∀ (s : State) (ch : Nat) (v w : Byte) (n : Nat), s.Consistent → ch < s.cfg.nch →
    s.com ch = v → s.last ch = v → 10 ≤ (s.cnt ch).toNat → w ≠ v →
    ∃ t, runOps (.step ch w :: List.replicate n (.step ch v)) s = .next t ∧
      opResults (.step ch w :: List.replicate n (.step ch v)) s = List.replicate (n + 1) (.mask v) ∧
      (1 ≤ n → t.last ch = v ∧ (t.cnt ch).toNat = min n 255)

/-- R132: a raw mask that changes on every tick keeps the counter at 1 and never commits. -/
def Obligations.AlternatingInputNeverCommits : Prop :=
  ∀ (s : State) (ch : Nat) (raws : List Byte), s.Consistent → ch < s.cfg.nch →
    List.IsChain (· ≠ ·) (s.last ch :: raws) →
    ∃ t, runOps (raws.map (.step ch)) s = .next t ∧ t.com ch = s.com ch ∧
      (raws ≠ [] → (t.cnt ch).toNat = 1)

/-- R34: the values of `LAST` at reset, any values at all, make no difference to any result of any sequence of operations. -/
def Obligations.ResetValueOfLastIsUnobservable : Prop :=
  ∀ (cfg : Config) (lasts : List Byte) (ops : List Instr), lasts.length = cfg.nch →
    opResults ops { State.boot cfg with chans := lasts.map (fun l => ⟨0, l, 0⟩) } = opResults ops (State.boot cfg)

/-- R212: until a channel has had ten ticks since the last reset its committed mask is 0x00, whatever the raw masks. -/
def Obligations.FirstNineTicksAfterResetReturnZero : Prop :=
  ∀ (cfg : Config) (ops : List Instr) (c : Nat) (t : State), c < cfg.nch → runOps ops (State.boot cfg) = .next t →
    (rawHistory cfg c ops).length ≤ 9 → t.com c = 0

/-- R60: an operation on one channel and an operation on another give the same registers and the same two results in either
order. That they complete on a channel number `>= NCH` too is the model's choice, notes/assumptions/5.md. -/
def Obligations.OperationsOnDifferentChannelsCommute : Prop :=
  ∀ (i j : Instr) (c d : Nat) (s : State), i.channel? = some c → j.channel? = some d → c ≠ d →
    ∃ si sij sj sji, exec i s = .next si ∧ exec j si = .next sij ∧ exec j s = .next sj ∧ exec i sj = .next sji ∧
      sij.chans = sji.chans ∧ si.result = sji.result ∧ sij.result = sj.result

/-- R60, R135, R171, R193: the registers of a channel after a sequence of operations are those its own ticks and the resets
alone would leave: no read, no idle cycle and no other channel makes a difference. -/
def Obligations.ChannelDependsOnlyOnItsOwnTicks : Prop :=
  ∀ (ops : List Instr) (s t u : State) (c : Nat), runOps ops s = .next t →
    runOps (ops.filter (fun i => (rawOn s.cfg c i).isSome || isReset i)) s = .next u → t.chan c = u.chan c

/-- R126: a channel driven from reset without `STEP` has `LAST` and `COM` empty or one-hot. -/
def Obligations.TickedChannelsHoldOneHotMasks : Prop :=
  ∀ (cfg : Config) (ops : List Instr) (c : Nat) (t : State), c < cfg.nch →
    (∀ i ∈ ops, ∀ raw, i ≠ .step c raw) → runOps ops (State.boot cfg) = .next t →
    emptyOrOneHot (t.last c) ∧ emptyOrOneHot (t.com c)

/-- R58 (b), R172: `RDC` after a `STEP` returns what that `STEP` returned, whatever else was issued between but a tick of the
channel or `RST`. -/
def Obligations.RdcReturnsWhatTheLastTickReturned : Prop :=
  ∀ (ops : List Instr) (s u v : State) (ch : Nat) (raw : Byte), s.Consistent → ch < s.cfg.nch →
    exec (.step ch raw) s = .next u → (∀ i ∈ ops, isReset i = false ∧ rawOn s.cfg ch i = none) →
    runOps ops u = .next v → ∃ t, exec (.rdc ch) v = .next t ∧ t.result = u.result

/-- R128, R33 (c), as an invariant over every consistent state: whatever raw masks account for a channel's registers (the count is
the saturated run length, `LAST` the most recent, `COM` 0x00 or ten in a row among them), after any operation, and after any
step, those masks extended by that operation account for them again. -/
def Obligations.EveryStepKeepsTheHistoryOfAChannel : Prop :=
  (∀ (i : Instr) (s t : State) (c : Nat) (h : List Byte), s.Consistent → c < s.cfg.nch →
    (s.chan c).AccountedBy h → exec i s = .next t →
    t.Consistent ∧ (t.chan c).AccountedBy (extendHistory s.cfg c h i)) ∧
  (∀ (i : Instr) (s t : State) (c : Nat) (h : List Byte), s.Consistent → c < s.cfg.nch →
    (s.chan c).AccountedBy h → s.nextOp = .ok i → step s = .next t →
    t.Consistent ∧ (t.chan c).AccountedBy (extendHistory s.cfg c h i))

end
end

