-- ==== Sys2Proof/Laws/Band.lean ====
section
/-! SUPPORT. What the band decoder can do, said once. -/

namespace Sys2Proof

@[simp] theorem leadingRun_nil : leadingRun [] = 0 := rfl
@[simp] theorem leadingRun_true (l : List Bool) : leadingRun (true :: l) = leadingRun l + 1 := rfl
@[simp] theorem leadingRun_false (l : List Bool) : leadingRun (false :: l) = 0 := rfl

theorem leadingRun_le_length (l : List Bool) : leadingRun l ≤ l.length := by
  induction l with
  | nil => simp
  | cons b l ih => cases b <;> simp; omega

/-- The band is the index of the first entry whose threshold the sample does not exceed, or 5: the two wordings of R101. -/
theorem band_eq (t : BandTable) (sample : Half) :
    t.band sample =
      if sample.toNat ≤ t.e0.thr.toNat then 0
      else if sample.toNat ≤ t.e1.thr.toNat then 1
      else if sample.toNat ≤ t.e2.thr.toNat then 2
      else if sample.toNat ≤ t.e3.thr.toNat then 3
      else if sample.toNat ≤ t.e4.thr.toNat then 4
      else 5 := by
  have fires (x : Half) : x.ult sample = !decide (sample.toNat ≤ x.toNat) := by
    by_cases h : sample.toNat ≤ x.toNat
    · simp [BitVec.ult, h]
    · simp [BitVec.ult, h]; omega
  simp only [BandTable.band, BandTable.cmp, BandTable.entries, List.map, fires]
  split_ifs <;> simp [*]

theorem band_le_five (t : BandTable) (sample : Half) : t.band sample ≤ 5 := by
  rw [band_eq]; split_ifs <;> omega

/-- The mask of each band (R101, R103). -/
theorem decodeBand_eq (t : BandTable) (sample : Half) :
    t.decodeBand sample =
      if sample.toNat ≤ t.e0.thr.toNat then oneHot8 t.e0.map
      else if sample.toNat ≤ t.e1.thr.toNat then oneHot8 t.e1.map
      else if sample.toNat ≤ t.e2.thr.toNat then oneHot8 t.e2.map
      else if sample.toNat ≤ t.e3.thr.toNat then oneHot8 t.e3.map
      else if sample.toNat ≤ t.e4.thr.toNat then oneHot8 t.e4.map
      else 0 := by
  unfold BandTable.decodeBand
  rw [band_eq]
  split_ifs <;> rfl

end Sys2Proof
end

