-- ==== Sys2Proof/Laws/State.lean ====
section
/-! SUPPORT. One lemma per field and update of the state, so that no later proof unfolds a record update. -/

namespace Sys2Proof.Machine

@[simp] theorem answer_cfg (s : State) (r : Result) : (s.answer r).cfg = s.cfg := rfl
@[simp] theorem answer_chans (s : State) (r : Result) : (s.answer r).chans = s.chans := rfl
@[simp] theorem answer_result (s : State) (r : Result) : (s.answer r).result = r := rfl
@[simp] theorem answer_pending (s : State) (r : Result) : (s.answer r).pending = s.pending := rfl
@[simp] theorem answer_chan (s : State) (r : Result) (c : Nat) : (s.answer r).chan c = s.chan c := rfl
@[simp] theorem answer_cnt (s : State) (r : Result) (c : Nat) : (s.answer r).cnt c = s.cnt c := rfl
@[simp] theorem answer_last (s : State) (r : Result) (c : Nat) : (s.answer r).last c = s.last c := rfl
@[simp] theorem answer_com (s : State) (r : Result) (c : Nat) : (s.answer r).com c = s.com c := rfl
@[simp] theorem answer_answer (s : State) (r q : Result) : (s.answer r).answer q = s.answer q := rfl

@[simp] theorem noValidResult_cfg (s : State) : s.noValidResult.cfg = s.cfg := rfl
@[simp] theorem noValidResult_chans (s : State) : s.noValidResult.chans = s.chans := rfl
@[simp] theorem noValidResult_result (s : State) : s.noValidResult.result = .notValid := rfl
@[simp] theorem noValidResult_pending (s : State) : s.noValidResult.pending = s.pending := rfl

@[simp] theorem setChan_cfg (s : State) (c : Nat) (r : Channel) : (s.setChan c r).cfg = s.cfg := rfl
@[simp] theorem setChan_chans (s : State) (c : Nat) (r : Channel) : (s.setChan c r).chans = s.chans.set c r := rfl
@[simp] theorem setChan_result (s : State) (c : Nat) (r : Channel) : (s.setChan c r).result = s.result := rfl
@[simp] theorem setChan_pending (s : State) (c : Nat) (r : Channel) : (s.setChan c r).pending = s.pending := rfl

@[simp] theorem resetChannels_cfg (s : State) : s.resetChannels.cfg = s.cfg := rfl
@[simp] theorem resetChannels_chans (s : State) :
    s.resetChannels.chans = List.replicate s.cfg.nch Channel.init := rfl
@[simp] theorem resetChannels_result (s : State) : s.resetChannels.result = s.result := rfl
@[simp] theorem resetChannels_pending (s : State) : s.resetChannels.pending = s.pending := rfl

@[simp] theorem taken_cfg (s : State) : s.taken.cfg = s.cfg := rfl
@[simp] theorem taken_chans (s : State) : s.taken.chans = s.chans := rfl
@[simp] theorem taken_result (s : State) : s.taken.result = s.result := rfl
@[simp] theorem taken_pending (s : State) : s.taken.pending = s.pending.tail := rfl

@[simp] theorem present_cfg (s : State) (p : Ports) : (s.present p).cfg = s.cfg := rfl
@[simp] theorem present_chans (s : State) (p : Ports) : (s.present p).chans = s.chans := rfl
@[simp] theorem present_result (s : State) (p : Ports) : (s.present p).result = s.result := rfl
@[simp] theorem present_pending (s : State) (p : Ports) : (s.present p).pending = p :: s.pending := rfl
@[simp] theorem present_presented (s : State) (p : Ports) : (s.present p).presented = p := rfl
@[simp] theorem present_taken (s : State) (p : Ports) : (s.present p).taken = s := rfl

@[simp] theorem boot_cfg (cfg : Config) : (State.boot cfg).cfg = cfg := rfl
@[simp] theorem boot_chans (cfg : Config) : (State.boot cfg).chans = List.replicate cfg.nch Channel.init := rfl
@[simp] theorem boot_result (cfg : Config) : (State.boot cfg).result = .none := rfl
@[simp] theorem boot_pending (cfg : Config) : (State.boot cfg).pending = [] := rfl

end Sys2Proof.Machine
end

