-- ==== Sys2Proof/Laws/Ops.lean ====
section
/-! SUPPORT. What each shared operation of Machine/Ops.lean can do, said once: reading a channel after a write, the channel
operand, the reset of every channel, and the width of the channel port. -/

namespace Sys2Proof

/-- `fitsPort` is `ch < 2^w` on a port of at least one bit. -/
theorem Laws.fitsPort_iff {w ch : Nat} (hw : 1 ≤ w) : fitsPort w ch = true ↔ ch < 2 ^ w := by
  unfold fitsPort
  rcases Nat.eq_zero_or_pos ch with rfl | h
  · simp; omega
  · simp [Nat.log2_lt (Nat.pos_iff_ne_zero.mp h)]

/-- `CH_W = max(1, ceil(log2(NCH)))`, as R74 writes it. -/
theorem Laws.chW_eq (cfg : Config) : cfg.chW = max 1 (Nat.clog 2 cfg.nch) := by
  unfold Config.chW Config.nch
  generalize cfg.moreTables.length = n
  simp only [Nat.add_sub_cancel]
  rcases Nat.eq_zero_or_pos n with rfl | h
  · simp
  · have hn : n ≠ 0 := by omega
    have h1 : Nat.clog 2 (n + 1) = Nat.log2 n + 1 := by
      apply le_antisymm
      · exact Nat.clog_le_of_le_pow (Nat.lt_log2_self)
      · rw [Nat.succ_le_iff, Nat.lt_clog_iff_pow_lt (by norm_num)]
        exact Nat.lt_succ_of_le (Nat.log2_self_le hn)
    omega

/-- The channel port has at least one bit. -/
theorem Laws.one_le_chW (cfg : Config) : 1 ≤ cfg.chW := Nat.succ_le_succ (Nat.zero_le _)

namespace Machine

theorem chan_eq_getElem (s : State) (c : Nat) (h : c < s.chans.length) : s.chan c = s.chans[c] := by
  simp [State.chan, List.getD_eq_getElem?_getD, List.getElem?_eq_getElem h]

theorem chan_congr {s t : State} (h : s.chans = t.chans) (c : Nat) : s.chan c = t.chan c := by
  unfold State.chan; rw [h]

/-- A channel that was written reads as written. -/
theorem chan_setChan_self (s : State) (c : Nat) (r : Channel) (h : c < s.chans.length) : (s.setChan c r).chan c = r := by
  simp [State.chan, List.getD_eq_getElem?_getD, h]

/-- Every other channel reads as before. -/
theorem chan_setChan_ne (s : State) (c d : Nat) (r : Channel) (h : d ≠ c) : (s.setChan c r).chan d = s.chan d := by
  simp [State.chan, List.getD_eq_getElem?_getD, List.getElem?_set_ne (Ne.symm h)]

/-- Writing a channel that has no register set leaves every channel as it was. -/
theorem chan_setChan_of_ge (s : State) (c d : Nat) (r : Channel) (h : s.chans.length ≤ c) :
    (s.setChan c r).chan d = s.chan d := by
  simp [State.chan, List.set_eq_of_length_le h]

/-- Every channel reads its reset values after the reset of every channel. -/
theorem chan_resetChannels (s : State) (c : Nat) : s.resetChannels.chan c = Channel.init := by
  simp only [State.chan, resetChannels_chans, List.getD_eq_getElem?_getD, List.getElem?_replicate]
  split <;> rfl

theorem chan_boot (cfg : Config) (c : Nat) : (State.boot cfg).chan c = Channel.init := by
  simp only [State.chan, boot_chans, List.getD_eq_getElem?_getD, List.getElem?_replicate]
  split <;> rfl

/-- An operation on a channel of the block. -/
theorem onChannel_of_lt (s done : State) {ch : Nat} (h : ch < s.cfg.nch) : s.onChannel ch done = .next done := by
  simp [State.onChannel, h]

/-- An operation on a reserved channel number. -/
theorem onChannel_of_ge (s done : State) {ch : Nat} (h : s.cfg.nch ≤ ch) : s.onChannel ch done = .next s.noValidResult := by
  simp [State.onChannel, Nat.not_lt.mpr h]

/-- All that an operation on a channel can do. -/
theorem onChannel_cases {s done t : State} {ch : Nat} (h : s.onChannel ch done = .next t) :
    (ch < s.cfg.nch ∧ t = done) ∨ (s.cfg.nch ≤ ch ∧ t = s.noValidResult) := by
  unfold State.onChannel at h
  split at h
  · exact .inl ⟨‹_›, by simpa using h.symm⟩
  · exact .inr ⟨Nat.not_lt.mp ‹_›, by simpa using h.symm⟩

end Machine

end Sys2Proof
end

