-- ==== Sys2Proof/Laws/Debounce.lean ====
section
/-! SUPPORT. What a tick can do, said once: the three branches of R121, and the state they leave. -/

namespace Sys2Proof.Machine

/-- Rule 1 of R121: a differing raw mask restarts the run. -/
theorem tick_of_ne {r : Channel} {raw : Byte} (h : raw ≠ r.last) : r.tick raw = { r with last := raw, cnt := 1 } := by
  simp [Channel.tick, h]

/-- Rule 3 of R121: a saturated counter is left alone. -/
theorem tick_of_full {r : Channel} {raw : Byte} (h : raw = r.last) (hc : r.cnt = countMax) : r.tick raw = r := by
  simp [Channel.tick, h, hc]

/-- Rule 2 of R121: an equal raw mask counts, and commits at the count of 10. -/
theorem tick_of_eq {r : Channel} {raw : Byte} (h : raw = r.last) (hc : r.cnt ≠ countMax) :
    r.tick raw = { r with cnt := r.cnt + 1, com := if r.cnt + 1 = debounceN then r.last else r.com } := by
  simp only [Channel.tick, h, hc, ne_eq, not_true_eq_false, not_false_eq_true, if_true, if_false]
  split <;> rfl

/-- The counter after a tick, as a number (R124, R127). -/
theorem tick_cnt (r : Channel) (raw : Byte) :
    (r.tick raw).cnt.toNat = if raw = r.last then min (r.cnt.toNat + 1) 255 else 1 := by
  have hlt := r.cnt.isLt
  by_cases h : raw = r.last
  · rw [if_pos h]
    by_cases hc : r.cnt = countMax
    · rw [tick_of_full h hc, hc]; rfl
    · rw [tick_of_eq h hc]
      have hn : r.cnt.toNat ≠ 255 := fun e => hc (BitVec.eq_of_toNat_eq e)
      simp only [BitVec.toNat_add]
      have : (1 : Byte).toNat = 1 := rfl
      omega
  · rw [tick_of_ne h, if_neg h]; rfl

/-- The last raw mask after a tick is its raw mask, in every branch. -/
theorem tick_last (r : Channel) (raw : Byte) : (r.tick raw).last = raw := by
  by_cases h : raw = r.last
  · by_cases hc : r.cnt = countMax
    · rw [tick_of_full h hc, h]
    · rw [tick_of_eq h hc, h]
  · rw [tick_of_ne h]

/-- The committed mask after a tick: replaced at the count of ten, held otherwise (R122). -/
theorem tick_com (r : Channel) (raw : Byte) :
    (r.tick raw).com = if raw = r.last ∧ r.cnt.toNat = 9 then raw else r.com := by
  by_cases h : raw = r.last
  · by_cases hc : r.cnt = countMax
    · rw [tick_of_full h hc]; simp [hc, countMax]
    · rw [tick_of_eq h hc]
      have : r.cnt + 1 = debounceN ↔ r.cnt.toNat = 9 := by
        constructor
        · intro e
          have e' : (r.cnt + 1).toNat = 10 := by rw [e]; rfl
          have := r.cnt.isLt
          rw [BitVec.toNat_add] at e'
          have : (1 : Byte).toNat = 1 := rfl
          omega
        · intro e
          have : r.cnt = 9 := BitVec.eq_of_toNat_eq e
          rw [this]; rfl
      simp only [this, h, true_and]
  · rw [tick_of_ne h]; simp [h]

@[simp] theorem debounce_cfg (s : State) (ch : Nat) (raw : Byte) : (s.debounce ch raw).cfg = s.cfg := rfl
@[simp] theorem debounce_pending (s : State) (ch : Nat) (raw : Byte) : (s.debounce ch raw).pending = s.pending := rfl
@[simp] theorem debounce_chans (s : State) (ch : Nat) (raw : Byte) :
    (s.debounce ch raw).chans = s.chans.set ch ((s.chan ch).tick raw) := rfl
@[simp] theorem debounce_result (s : State) (ch : Nat) (raw : Byte) :
    (s.debounce ch raw).result = .mask ((s.debounce ch raw).com ch) := rfl

/-- The ticked channel after a tick. -/
theorem debounce_chan_self (s : State) (ch : Nat) (raw : Byte) (h : ch < s.chans.length) :
    (s.debounce ch raw).chan ch = (s.chan ch).tick raw := chan_setChan_self s ch _ h

/-- Every other channel after a tick. -/
theorem debounce_chan_ne (s : State) (ch d : Nat) (raw : Byte) (h : d ≠ ch) :
    (s.debounce ch raw).chan d = s.chan d := chan_setChan_ne s ch d _ h

/-- A tick of a channel that has no register set. -/
theorem debounce_chan_of_ge (s : State) (ch d : Nat) (raw : Byte) (h : s.chans.length ≤ ch) :
    (s.debounce ch raw).chan d = s.chan d := chan_setChan_of_ge s ch d _ h

end Sys2Proof.Machine
end

