-- ==== Sys2Proof/Laws/Framer.lean ====
section
/-! SUPPORT. What the clamp and the byte layout of a field can do, said once. -/

namespace Sys2Proof.Machine

/-- The clamp is the unsigned minimum (R152). -/
theorem clamp_toNat (m a : Half) : (clamp m a).toNat = min a.toNat m.toNat := by
  unfold clamp
  by_cases h : m.ult a = true
  · have h' : m.toNat < a.toNat := by simpa [BitVec.ult] using h
    rw [if_pos h]; omega
  · have h' : ¬ m.toNat < a.toNat := by simpa [BitVec.ult] using h
    rw [if_neg h]; omega

theorem lowByte_toNat (v : Half) : (lowByte v).toNat = v.toNat % 256 := by simp [lowByte]

theorem highByte_toNat (v : Half) : (highByte v).toNat = v.toNat / 256 := by
  have := v.isLt
  simp [highByte, Nat.shiftRight_eq_div_pow]
  omega

/-- The two bytes of a field hold all of it (R154). -/
theorem fieldOf_bytes (v : Half) : fieldOf (lowByte v) (highByte v) = v := by
  apply BitVec.eq_of_getLsbD_eq
  intro i hi
  rw [fieldOf, BitVec.getLsbD_append]
  by_cases h : i < 8
  · simp [lowByte, h]
  · simp only [h, highByte, BitVec.getLsbD_extractLsb', show i - 8 < 8 by omega, decide_true,
      Bool.true_and, show 8 + (i - 8) = i by omega, if_false]

theorem lowByte_fieldOf (l h : Byte) : lowByte (fieldOf l h) = l := by
  apply BitVec.eq_of_getLsbD_eq
  intro i hi
  simp only [lowByte, fieldOf, BitVec.getLsbD_extractLsb', BitVec.getLsbD_append, hi, decide_true, Bool.true_and, Nat.zero_add]
  simp [hi]

theorem highByte_fieldOf (l h : Byte) : highByte (fieldOf l h) = h := by
  apply BitVec.eq_of_getLsbD_eq
  intro i hi
  simp only [highByte, fieldOf, BitVec.getLsbD_extractLsb', BitVec.getLsbD_append, hi, decide_true, Bool.true_and]
  simp

end Sys2Proof.Machine
end

