-- ==== Sys2Proof/Laws/PerInstr.lean ====
section
/-! SUPPORT. Statements about every operation as syntax, one lemma per constructor. -/

namespace Sys2Proof.Laws

/-- The control vector that the encoder gives an operation is selected by exactly one row of R72. -/
def CtlMatchesOneRow.Statement (i : Instr) : Prop :=
  (ctlRows.filter (·.selects (encode i).ctl)).length = 1

theorem CtlMatchesOneRow.nop : CtlMatchesOneRow.Statement .nop := by
  show (ctlRows.filter (·.selects 0b0000)).length = 1; decide
theorem CtlMatchesOneRow.dec (ch : Nat) (sample : Half) : CtlMatchesOneRow.Statement (.dec ch sample) := by
  show (ctlRows.filter (·.selects 0b0001)).length = 1; decide
theorem CtlMatchesOneRow.step (ch : Nat) (raw : Byte) : CtlMatchesOneRow.Statement (.step ch raw) := by
  show (ctlRows.filter (·.selects 0b0010)).length = 1; decide
theorem CtlMatchesOneRow.tick (ch : Nat) (sample : Half) : CtlMatchesOneRow.Statement (.tick ch sample) := by
  show (ctlRows.filter (·.selects 0b0011)).length = 1; decide
theorem CtlMatchesOneRow.rdc (ch : Nat) : CtlMatchesOneRow.Statement (.rdc ch) := by
  show (ctlRows.filter (·.selects 0b0100)).length = 1; decide
theorem CtlMatchesOneRow.frame (a0 a1 a2 a3 btn : Half) : CtlMatchesOneRow.Statement (.frame a0 a1 a2 a3 btn) := by
  show (ctlRows.filter (·.selects 0b0101)).length = 1; decide
theorem CtlMatchesOneRow.reserved6 : CtlMatchesOneRow.Statement .reserved6 := by
  show (ctlRows.filter (·.selects 0b0110)).length = 1; decide
theorem CtlMatchesOneRow.reserved7 : CtlMatchesOneRow.Statement .reserved7 := by
  show (ctlRows.filter (·.selects 0b0111)).length = 1; decide
theorem CtlMatchesOneRow.rst (op : BitVec 3) : CtlMatchesOneRow.Statement (.rst op) := by
  revert op; unfold CtlMatchesOneRow.Statement; decide

end Sys2Proof.Laws
end

