-- ==== Sys2Proof/Laws/Run.lean ====
section
/-! SUPPORT. Sequences of operations, and the raw masks a channel has been ticked with. -/

namespace Sys2Proof.Machine

@[simp] theorem runOps_nil (s : State) : runOps [] s = .next s := rfl

theorem runOps_cons {i : Instr} {s t : State} (ops : List Instr) (h : exec i s = .next t) :
    runOps (i :: ops) s = runOps ops t := by simp [runOps, h]

theorem opResults_cons {i : Instr} {s t : State} (ops : List Instr) (h : exec i s = .next t) :
    opResults (i :: ops) s = t.result :: opResults ops t := by simp [opResults, h]

/-- A run in two parts. -/
theorem runOps_append {ops ops' : List Instr} {s t : State} (h : runOps ops s = .next t) :
    runOps (ops ++ ops') s = runOps ops' t := by
  induction ops generalizing s with
  | nil => simpa using congrArg (fun o => match o with | .next u => runOps ops' u | .fault f => .fault f | .refused r => .refused r) h
  | cons i ops ih =>
    simp only [runOps, List.cons_append] at h ⊢
    cases he : exec i s with
    | next u => simp only [he] at h ⊢; exact ih h
    | fault f => simp [he] at h
    | refused r => simp [he] at h

/-- An induction over a run, packaged once: what holds at the start and is kept by every operation holds at the end. -/
theorem runOps_induction {P : State → Prop} {ops : List Instr} {s t : State} (h0 : P s)
    (hstep : ∀ i ∈ ops, ∀ u v, P u → exec i u = .next v → P v) (h : runOps ops s = .next t) : P t := by
  induction ops generalizing s with
  | nil => simp only [runOps_nil, Host.Outcome.next.injEq] at h; exact h ▸ h0
  | cons i ops ih =>
    simp only [runOps] at h
    cases he : exec i s with
    | next u =>
      simp only [he] at h
      exact ih (hstep i (by simp) s u h0 he) (fun j hj => hstep j (by simp [hj])) h
    | fault f => simp [he] at h
    | refused r => simp [he] at h

@[simp] theorem rawHistory_nil (cfg : Config) (c : Nat) : rawHistory cfg c [] = [] := rfl

/-- The history after one more operation. -/
theorem rawHistory_concat (cfg : Config) (c : Nat) (ops : List Instr) (i : Instr) :
    rawHistory cfg c (ops ++ [i]) = extendHistory cfg c (rawHistory cfg c ops) i := by
  simp [rawHistory, List.foldl_append]

/-- A run longer by one equal raw mask, and a run broken by a different one. -/
theorem runLength_cons (raw : Byte) (h : List Byte) :
    runLength (raw :: h) = if h.head? = some raw then runLength h + 1 else 1 := by
  cases h with
  | nil => simp [runLength]
  | cons r rest =>
    by_cases e : r = raw
    · subst e; simp [runLength]
    · simp [runLength, e]

/-- A channel after reset is accounted for by the empty history (R32). -/
theorem init_accountedBy : Channel.init.AccountedBy [] := ⟨rfl, rfl, .inl rfl⟩

/-- A run of at least `n` stands at the head of the history. -/
theorem eq_replicate_append_of_le_runLength {n : Nat} {h : List Byte} (hn : n ≤ runLength h) :
    ∃ earlier, h = List.replicate n (h.headD 0) ++ earlier := by
  induction n generalizing h with
  | zero => exact ⟨h, rfl⟩
  | succ n ih =>
    cases h with
    | nil => simp [runLength] at hn
    | cons raw h =>
      rw [runLength_cons] at hn
      cases n with
      | zero => exact ⟨h, rfl⟩
      | succ n =>
        split at hn
        · next e =>
          have hd : h.headD 0 = raw := by simp [List.headD_eq_head?_getD, e]
          obtain ⟨earlier, he⟩ := ih (h := h) (by omega)
          exact ⟨earlier, by rw [hd] at he; simp [he, List.replicate_succ]⟩
        · omega

/-- All that an operation can do to a channel's registers (R175): `RST` resets it, a tick of the channel with a raw mask is
`Channel.tick`, and every other operation leaves it alone. The number of register sets is kept, or set to `NCH` by `RST`. -/
theorem exec_channel {i : Instr} {s t : State} (h : exec i s = .next t) (c : Nat) :
    t.chans.length = (if isReset i then s.cfg.nch else s.chans.length) ∧
    (c < s.chans.length → c < s.cfg.nch → t.chan c = if isReset i then Channel.init else match rawOn s.cfg c i with
      | some raw => (s.chan c).tick raw
      | none => s.chan c) := by
  cases i with
  | step ch raw =>
    rcases onChannel_cases h with ⟨hl, rfl⟩ | ⟨hl, rfl⟩
    · refine ⟨by simp [isReset], fun hc hn => ?_⟩
      simp only [isReset, rawOn]
      by_cases e : ch = c
      · subst e; simp [debounce_chan_self s ch raw hc]
      · simp [e, debounce_chan_ne s ch c raw (Ne.symm e)]
    · refine ⟨by simp [isReset], fun hc hn => ?_⟩
      have e : ch ≠ c := by omega
      simp [isReset, rawOn, e]; rfl
  | tick ch sa =>
    rcases onChannel_cases h with ⟨hl, rfl⟩ | ⟨hl, rfl⟩
    · refine ⟨by simp [isReset], fun hc hn => ?_⟩
      simp only [isReset, rawOn]
      by_cases e : ch = c
      · subst e; simp [debounce_chan_self s ch _ hc, State.bandTable]
      · simp [e, debounce_chan_ne s ch c _ (Ne.symm e)]
    · refine ⟨by simp [isReset], fun hc hn => ?_⟩
      have e : ch ≠ c := by omega
      simp [isReset, rawOn, e]; rfl
  | dec ch sa => rcases onChannel_cases h with ⟨hl, rfl⟩ | ⟨hl, rfl⟩ <;> exact ⟨rfl, fun _ _ => rfl⟩
  | rdc ch => rcases onChannel_cases h with ⟨hl, rfl⟩ | ⟨hl, rfl⟩ <;> exact ⟨rfl, fun _ _ => rfl⟩
  | rst op =>
    cases h
    refine ⟨by simp [isReset], fun _ _ => ?_⟩
    simp [isReset]; exact chan_resetChannels s c
  | nop => cases h; exact ⟨rfl, fun _ _ => rfl⟩
  | frame => cases h; exact ⟨rfl, fun _ _ => rfl⟩
  | reserved6 => cases h; exact ⟨rfl, fun _ _ => rfl⟩
  | reserved7 => cases h; exact ⟨rfl, fun _ _ => rfl⟩

end Sys2Proof.Machine
end

