-- ==== Sys2Proof/Tests/Slice0.lean ====
section
/-! SUPPORT. Checks on small states with expected values from spec/95_test_vectors.md (named by their ids) or written out from the
spec's tables, and for every statement with hypotheses a witness that meets them. -/

namespace Sys2Proof.Tests

open Sys2Proof Sys2Proof.Machine

/-- A table from its five thresholds and mappings, as spec/95_test_vectors.md writes one. -/
def tableOf (t0 t1 t2 t3 t4 : Half) (m0 m1 m2 m3 m4 : BitVec 4) : BandTable :=
  ⟨⟨t0, m0⟩, ⟨t1, m1⟩, ⟨t2, m2⟩, ⟨t3, m3⟩, ⟨t4, m4⟩⟩

/-- `T0`, `T1`, `Tu`, `Td`, `Tg`, `Tm` of spec/95_test_vectors.md. -/
def tabT0 : BandTable := tableOf 100 200 300 400 500 0 1 2 3 4
def tabT1 : BandTable := tableOf 0x0400 0x0800 0x0C00 0x1000 0x1400 5 6 7 8 9
def tabTu : BandTable := tableOf 300 100 500 200 400 0 1 2 3 4
def tabTd : BandTable := tableOf 100 100 300 300 65535 0 1 2 3 4
def tabTg : BandTable := tableOf 10 20 65535 40 50 0 1 2 3 4
def tabTm : BandTable := tableOf 100 200 300 400 500 3 3 0 7 10

/-- The configuration of spec/95_test_vectors.md: two channels, `MAX_AXIS = 0x0400`. -/
def cfg95 : Config := ⟨tabT0, [tabT1], 0x0400⟩

/-- Channel 0 in a given state, channel 1 in a given state, nothing presented. -/
def st (r0 r1 : Channel) : State := ⟨cfg95, [r0, r1], .none, []⟩

/-- Channel 1 right after reset. -/
def st0 (cnt last com : Byte) : State := st ⟨cnt, last, com⟩ Channel.init

/-- The channel 0 state and the result after one operation. -/
def after (i : Instr) (s : State) : Option (Channel × Result) :=
  match exec i s with
  | .next t => some (t.chan 0, t.result)
  | .fault _ => none
  | .refused _ => none

/-- The outcome of a step: 0 next, 1 a presentation that does not decode, 2 anything else. -/
def tag (o : Host.Outcome State Fault Refusal) : Nat :=
  match o with
  | .next _ => 0
  | .refused (.undecodable _) => 1
  | _ => 2

/-! ### Well-formedness and decoding -/

/-- A channel number of two bits does not fit a port of one (R74). -/
theorem test_wellFormed_refuses_dec : (Instr.dec 2 0).wellFormed 1 = false := by decide
theorem test_wellFormed_refuses_step : (Instr.step 4 0).wellFormed 2 = false := by decide
theorem test_wellFormed_refuses_tick : (Instr.tick 256 0).wellFormed 8 = false := by decide
theorem test_wellFormed_refuses_rdc : (Instr.rdc 2).wellFormed 1 = false := by decide
theorem test_legal_refuses_reserved :
    Instr.reserved6.legal 2 = false ∧ Instr.reserved7.legal 2 = false ∧ (Instr.step 3 0).legal 3 = false := by decide

/-- Section 2.9 of spec/95: the sixteen control vectors, each written out. -/
theorem test_decode_operations :
    decodeTableWord 8 0b0000 = some .nop ∧ decodeTableWord 8 0b0001 = some (.dec 0 0) ∧
    decodeTableWord 8 0b0010 = some (.step 0 0) ∧ decodeTableWord 8 0b0011 = some (.tick 0 0) ∧
    decodeTableWord 8 0b0100 = some (.rdc 0) ∧ decodeTableWord 8 0b0101 = some (.frame 0 0 0 0 0) ∧
    decodeTableWord 8 0b0110 = some .reserved6 ∧ decodeTableWord 8 0b0111 = some .reserved7 := by decide
theorem test_decode_reset :
    decodeTableWord 8 0b1000 = some (.rst 0) ∧ decodeTableWord 8 0b1001 = some (.rst 1) ∧
    decodeTableWord 8 0b1010 = some (.rst 2) ∧ decodeTableWord 8 0b1011 = some (.rst 3) ∧
    decodeTableWord 8 0b1100 = some (.rst 4) ∧ decodeTableWord 8 0b1101 = some (.rst 5) ∧
    decodeTableWord 8 0b1110 = some (.rst 6) ∧ decodeTableWord 8 0b1111 = some (.rst 7) := by decide

/-- Step 3 of program P4, written out on the ports: `TICK 1, 0x0500`. -/
theorem test_decode_operands :
    decode 1 ⟨0b0011, 1, 0x0500, 0xFF, 0, 0, 0, 0, 0⟩ = .ok (.tick 1 0x0500) ∧
    decode 1 ⟨0b0010, 1, 0x0500, 0x81, 0, 0, 0, 0, 0⟩ = .ok (.step 1 0x81) ∧
    decode 1 ⟨0b0101, 9, 0, 0, 0x0123, 0x0400, 0x0401, 0xFFFF, 0x0042⟩ =
      .ok (.frame 0x0123 0x0400 0x0401 0xFFFF 0x0042) ∧
    decode 1 ⟨0b0100, 2, 0, 0, 0, 0, 0, 0, 0⟩ = .error .channelTooWide := ⟨rfl, rfl, rfl, rfl⟩

/-- `CH_W` for 1, 2, 3 and 5 channels (R74). -/
theorem test_chW :
    (⟨tabT0, [], 0⟩ : Config).chW = 1 ∧ cfg95.chW = 1 ∧ (⟨tabT0, [tabT0, tabT0], 0⟩ : Config).chW = 2 ∧
    (⟨tabT0, [tabT0, tabT0, tabT0, tabT0], 0⟩ : Config).chW = 3 := by decide

/-! ### One step of each operation -/

/-- V-NOP-1. -/
theorem test_nop : after .nop (st0 9 0x02 0) = some (⟨9, 0x02, 0⟩, .none) := by decide

/-- V-DEC-4, V-DEC-5, V-DEC-15, V-DEC-16, V-DEC-23, V-DEC-25. -/
theorem test_dec :
    after (.dec 0 100) (st0 9 0x02 0) = some (⟨9, 0x02, 0⟩, .mask 0x01) ∧
    after (.dec 0 101) (st0 9 0x02 0) = some (⟨9, 0x02, 0⟩, .mask 0x02) ∧
    after (.dec 0 500) (st0 9 0x02 0) = some (⟨9, 0x02, 0⟩, .mask 0x10) ∧
    after (.dec 0 501) (st0 9 0x02 0) = some (⟨9, 0x02, 0⟩, .mask 0x00) ∧
    after (.dec 1 0x0801) (st0 9 0x02 0) = some (⟨9, 0x02, 0⟩, .mask 0x80) ∧
    after (.dec 1 0x0C01) (st0 9 0x02 0) = some (⟨9, 0x02, 0⟩, .mask 0x00) := by decide

/-- V-DEC-33, V-DEC-37, V-DEC-42, V-DEC-45, V-DEC-51, V-DEC-55, V-DEC-58: unsorted, equal, top and duplicate entries. -/
theorem test_decodeBand_corners :
    tabTu.decodeBand 250 = 0x01 ∧ tabTu.decodeBand 450 = 0x04 ∧ tabTd.decodeBand 101 = 0x04 ∧
    tabTd.decodeBand 65535 = 0x10 ∧ tabTg.decodeBand 65535 = 0x04 ∧ tabTm.decodeBand 150 = 0x08 ∧
    tabTm.decodeBand 450 = 0x00 := by decide

/-- V-STEP-2, V-STEP-4, V-STEP-5, V-STEP-6. -/
theorem test_step :
    after (.step 0 0x00) (st0 0 0 0) = some (⟨1, 0, 0⟩, .mask 0) ∧
    after (.step 0 0x02) (st0 9 0x02 0) = some (⟨10, 0x02, 0x02⟩, .mask 0x02) ∧
    after (.step 0 0x04) (st0 9 0x02 0) = some (⟨1, 0x04, 0⟩, .mask 0) ∧
    after (.step 0 0x02) (st0 10 0x02 0x02) = some (⟨11, 0x02, 0x02⟩, .mask 0x02) := by decide

/-- V-STEP-8, V-STEP-9, V-STEP-10, V-STEP-13. -/
theorem test_step_saturation :
    after (.step 0 0x02) (st0 254 0x02 0x02) = some (⟨255, 0x02, 0x02⟩, .mask 0x02) ∧
    after (.step 0 0x02) (st0 255 0x02 0x02) = some (⟨255, 0x02, 0x02⟩, .mask 0x02) ∧
    after (.step 0 0x04) (st0 255 0x02 0x02) = some (⟨1, 0x04, 0x02⟩, .mask 0x02) ∧
    after (.step 0 0x02) (st0 9 0x82 0x01) = some (⟨1, 0x02, 0x01⟩, .mask 0x01) := by decide

/-- V-TICK-2, V-TICK-3, V-TICK-5. -/
theorem test_tick :
    after (.tick 0 199) (st0 9 0x02 0) = some (⟨10, 0x02, 0x02⟩, .mask 0x02) ∧
    after (.tick 0 201) (st0 9 0x02 0) = some (⟨1, 0x04, 0⟩, .mask 0) ∧
    after (.tick 0 600) (st0 10 0x04 0x04) = some (⟨1, 0, 0x04⟩, .mask 0x04) := by decide

/-- V-TICK-6: channel 1 uses its own table, and channel 0 is left alone. -/
theorem test_tick_own_table :
    exec (.tick 1 0x0500) (st ⟨5, 0x02, 0⟩ ⟨9, 0x40, 0⟩) =
      .next { st ⟨5, 0x02, 0⟩ ⟨10, 0x40, 0x40⟩ with result := .mask 0x40 } := rfl

/-- V-RDC-2, V-RDC-5. -/
theorem test_rdc :
    after (.rdc 0) (st0 9 0x02 0) = some (⟨9, 0x02, 0⟩, .mask 0) ∧
    after (.rdc 1) (st ⟨10, 0x02, 0x02⟩ ⟨3, 0x40, 0x20⟩) = some (⟨10, 0x02, 0x02⟩, .mask 0x20) := by decide

/-- V-FRM-1. -/
theorem test_frame :
    after (.frame 0x0123 0x0400 0x0401 0xFFFF 0x0012) (st0 9 0x02 0) =
      some (⟨9, 0x02, 0⟩, .record #v[0x23, 0x01, 0x00, 0x04, 0x00, 0x04, 0x00, 0x04, 0x12, 0x00]) := by decide

/-- V-FRM-6 and V-FRM-7: the byte order, and the whole 16-bit value compared. -/
theorem test_frameRecord :
    frameRecord 0x1234 0x1234 0x1235 0x1233 0x3412 0x8001 =
      #v[0x34, 0x12, 0x34, 0x12, 0x33, 0x12, 0x34, 0x12, 0x01, 0x80] ∧
    frameRecord 0x00FF 0x0100 0x00FF 0xFF00 0x0001 0x0102 =
      #v[0xFF, 0x00, 0xFF, 0x00, 0xFF, 0x00, 0x01, 0x00, 0x02, 0x01] := by decide

/-- V-RSV-1 and V-RSV-2, the hardware's column. -/
theorem test_reserved :
    after .reserved6 (st0 9 0x02 0) = some (⟨9, 0x02, 0⟩, .notValid) ∧
    after .reserved7 (st0 9 0x02 0) = some (⟨9, 0x02, 0⟩, .notValid) := by decide

/-- V-RSV-3, the hardware's column, with `NCH = 2`. -/
theorem test_reserved_channel : after (.step 2 0x02) (st0 9 0x02 0) = some (⟨9, 0x02, 0⟩, .notValid) := by decide

/-- V-RST-1 (all channels together) and V-RST-2 (`ctl = 0xA`). -/
theorem test_rst :
    exec (.rst 0) (st ⟨255, 0x10, 0x10⟩ ⟨4, 0x40, 0x20⟩) = .next (st Channel.init Channel.init) ∧
    after (.rst 2) (st0 9 0x02 0) = some (Channel.init, .none) := ⟨rfl, by decide⟩

/-- The predicates of R8 on the tables of spec/95, as its table of configurations gives them. -/
theorem test_table_predicates :
    tabT0.docPre = true ∧ tabT0.mapFits = true ∧ tabT1.docPre = true ∧ tabT1.mapFits = false ∧
    tabTu.sorted = false ∧ tabTu.mapInDocRange = true ∧ tabTd.sorted = true ∧ tabTm.mapUnique = false ∧
    tabTm.mapInDocRange = false := by decide

/-- A step takes the presented operation off the list; with nothing presented it is a `NOP`; the first step after reset runs the
presented row, whatever the configuration. -/
theorem test_step_takes_the_presentation :
    step { st0 9 0x02 0 with pending := [encode (.rdc 0), encode .nop] } =
      .next { st0 9 0x02 0 with result := .mask 0, pending := [encode .nop] } := rfl
theorem test_first_step_after_reset :
    step (State.reset.withFetchWord 8 0b0011) = exec (.tick 0 0) State.reset ∧ step State.reset = exec .nop State.reset :=
  ⟨rfl, rfl⟩

/-! ### Witnesses: the hypotheses of the statements can be met -/

theorem witness_DecodeOfEncodeIsTheOperation :
    (Instr.tick 1 150).wellFormed 1 = true ∧ (Instr.frame 0 0 0 0 0).wellFormed 1 = true := by decide

theorem witness_EncodeOfDecodedIsThePresentation :
    decode 1 ⟨0x2, 1, 7, 0x81, 1, 2, 3, 4, 5⟩ = .ok (.step 1 0x81) ∧
    decode 1 ⟨0xD, 9, 7, 0x81, 1, 2, 3, 4, 5⟩ = .ok (.rst 5) := ⟨rfl, rfl⟩

/-- For each of the nine clauses a presentation on a one-bit port with the largest channel number it carries. -/
theorem witness_EveryControlVectorSelectsItsRow :
    (∀ c : BitVec 4, ({ Ports.idle with ch := 1, ctl := c } : Ports).ch < 2 ^ 1 ∧ 1 ≤ 1 ∧
      ({ Ports.idle with ch := 1, ctl := c } : Ports).ctl = c) ∧ (0xF : BitVec 4).getLsbD 3 = true := by decide

/-- Two presentations of `STEP`, and two of `FRAME`, that agree on every port the operation reads and differ on every other. -/
theorem witness_UnreadOperandPortsHaveNoEffect :
    ∀ pq ∈ [((⟨0x2, 1, 7, 0x81, 1, 2, 3, 4, 5⟩ : Ports), (⟨0x2, 1, 8, 0x81, 6, 7, 8, 9, 0⟩ : Ports)),
        (⟨0x5, 1, 7, 0x81, 1, 2, 3, 4, 5⟩, ⟨0x5, 2, 8, 0x82, 1, 2, 3, 4, 5⟩)],
      pq.1 ≠ pq.2 ∧ pq.1.ctl = pq.2.ctl ∧
      (pq.1.ctl = 0x1 ∨ pq.1.ctl = 0x2 ∨ pq.1.ctl = 0x3 ∨ pq.1.ctl = 0x4 → pq.1.ch = pq.2.ch) ∧
      (pq.1.ctl = 0x1 ∨ pq.1.ctl = 0x3 → pq.1.sample = pq.2.sample) ∧
      (pq.1.ctl = 0x2 → pq.1.rawIn = pq.2.rawIn) ∧
      (pq.1.ctl = 0x5 → pq.1.a0 = pq.2.a0 ∧ pq.1.a1 = pq.2.a1 ∧ pq.1.a2 = pq.2.a2 ∧ pq.1.a3 = pq.2.a3 ∧ pq.1.btn = pq.2.btn) := by
  decide

theorem witness_EveryLegalOperationCanBePresented :
    (Instr.rdc 1).legal cfg95.nch = true ∧ (Instr.rst 7).legal cfg95.nch = true := by decide

theorem witness_StepRunsThePresentedOperation :
    ({ st0 9 0x02 0 with pending := [encode (.step 1 0x40)] } : State).pending = encode (.step 1 0x40) :: [] ∧
    decode cfg95.chW (encode (.step 1 0x40)) = .ok (.step 1 0x40) := ⟨rfl, rfl⟩

theorem witness_StepWithNothingPresentedIsNop : (st0 9 0x02 0).pending = [] := rfl

/-- Both branches: the smallest channel number that does not fit the port of two channels, and the largest that does. -/
theorem witness_StepIsRefusedOnlyOnAnUnpresentableChannel :
    2 ^ cfg95.chW ≤ 2 ∧ ¬ 2 ^ cfg95.chW ≤ 1 ∧
    tag (step { st0 9 0x02 0 with pending := [{ Ports.idle with ctl := 0x4, ch := 2 }] }) = 1 ∧
    tag (step { st0 9 0x02 0 with pending := [{ Ports.idle with ctl := 0x4, ch := 1 }] }) = 0 ∧
    tag (step { st0 9 0x02 0 with pending := [{ Ports.idle with ctl := 0x5, ch := 2 }] }) = 0 := by decide

theorem witness_PresentedRunIsTheOperationSequence :
    ∀ i ∈ [Instr.tick 0 150, .rdc 1, .rst 3], i.wellFormed (st0 9 0x02 0).cfg.chW = true := by decide

/-- The largest channel number of two channels: the hypotheses of `RdcReturnsTheCommittedMask`,
`StepFollowsTheTransitionRules`, `StepReturnsTheCommittedMaskAfterItsWrites`, `DecReturnsTheMappedBitOfTheBand` and
`TickIsDecThenStep`. -/
theorem witness_channel_of_a_consistent_state : (st0 9 0x02 0).Consistent ∧ 1 < (st0 9 0x02 0).cfg.nch := by decide

theorem witness_ReservedChannelsChangeNothing : (st0 9 0x02 0).cfg.nch ≤ 2 := by decide

/-- The clauses of `RstInitialisesEveryChannel` and `ResetStateHoldsTheResetValues` at the largest channel number. -/
theorem witness_reset_channels : 1 < (st0 9 0x02 0).cfg.nch ∧ 1 < cfg95.nch := by decide

/-- `DecReturnsTheMappedBitOfTheBand`: band 4 at its upper end, and band 5 from the next sample on. -/
theorem witness_DecReturnsTheMappedBitOfTheBand :
    (∀ j : Fin 5, j < 4 → ((cfg95.table 0).entry j).thr.toNat < (500 : Half).toNat) ∧
    (500 : Half).toNat ≤ ((cfg95.table 0).entry 4).thr.toNat ∧
    (∀ k : Fin 5, ((cfg95.table 0).entry k).thr.toNat < (501 : Half).toNat) := by decide

theorem witness_ComparatorsAreUnsignedAndStrict : (tabT0.entry 4).thr = (500 : Half) := by decide

theorem witness_SampleAboveEveryThresholdGivesTheEmptyMask :
    0 < (st0 9 0x02 0).cfg.nch ∧ ∀ k : Fin 5, (((st0 9 0x02 0).cfg.table 0).entry k).thr.toNat < (501 : Half).toNat := by decide

theorem witness_MappingSetsItsOwnBitOrNone : (7 : BitVec 4).toNat < 8 ∧ 8 ≤ (8 : BitVec 4).toNat := by decide

/-- Each of the six clauses is met at the upper end of its interval. -/
theorem witness_SortedBandsAreTheIntervals :
    tabT0.sorted = true ∧ tabT0.band 100 = 0 ∧ tabT0.band 200 = 1 ∧ tabT0.band 300 = 2 ∧ tabT0.band 400 = 3 ∧
    tabT0.band 500 = 4 ∧ tabT0.band 65535 = 5 := by decide

theorem witness_BandIsMonotoneInTheSample : (100 : Half).toNat ≤ (101 : Half).toNat ∧ tabTu.band 300 < tabTu.band 301 := by decide

theorem witness_EmptyMaskMeansBandFive : tabTu.mapFits = true ∧ tabTu.decodeBand 501 = 0 ∧ tabTu.decodeBand 500 ≠ 0 := by decide

/-- A threshold of 65535 in the middle, none at all, and five equal ones. -/
theorem witness_BandAtTheEndsOfTheRange :
    (tabTg.entry 2).thr.toNat = 65535 ∧ (∀ j : Fin 5, j < 2 → (tabTg.entry j).thr.toNat ≠ 65535) ∧
    (∀ i : Fin 5, (tabT0.entry i).thr.toNat ≠ 65535) ∧
    (∀ i : Fin 5, ((tableOf 0 0 0 0 0 0 1 2 3 4).entry i).thr = 0) := by decide

/-- The three rules of R121, each at the ends of its counts. -/
theorem witness_StepFollowsTheTransitionRules :
    (0x04 : Byte) ≠ (st0 9 0x02 0).last 0 ∧ (0x02 : Byte) = (st0 9 0x02 0).last 0 ∧ ((st0 9 0x02 0).cnt 0).toNat = 9 ∧
    ((st0 254 0x02 0x02).cnt 0).toNat ≠ 255 ∧ ((st0 255 0x02 0x02).cnt 0).toNat = 255 := by decide

/-- `PhaseAfterATick`, `CounterSaturatesAt255` and `ComparisonIsOverAllEightBits`: a tick that completes, with an equal and with a
differing raw mask. -/
theorem witness_step_completes :
    exec (.step 0 0x02) (st0 255 0x02 0x02) = .next { st0 255 0x02 0x02 with result := .mask 0x02 } ∧
    exec (.step 0 0x82) (st0 255 0x02 0x02) = .next { st0 1 0x82 0x02 with result := .mask 0x02 } ∧
    (∃ k, k < 8 ∧ (0x82 : Byte).getLsbD k ≠ ((st0 255 0x02 0x02).last 0).getLsbD k) := ⟨rfl, rfl, 7, by decide⟩

/-- The second half of `CounterSaturatesAt255`: both ways out of 255. -/
theorem witness_CounterSaturatesAt255 :
    ((st0 255 0x02 0x02).cnt 0).toNat = 255 ∧
    exec (.rst 0) (st0 255 0x02 0x02) = .next (st0 0 0 0) ∧ ((st0 0 0 0).cnt 0).toNat ≠ 255 ∧
    ((st0 1 0x82 0x02).cnt 0).toNat ≠ 255 := ⟨by decide, rfl, by decide, by decide⟩

/-- `CommitHappensOnlyAtTheCountOfTen` and `CommitsOfDifferentValuesAreTenTicksApart`: a commit of a new value, and nine further
ticks of another. -/
theorem witness_commit_of_a_new_value :
    exec (.tick 0 150) (st0 9 0x02 0) = .next { st0 10 0x02 0x02 with result := .mask 0x02 } ∧
    isReset (.tick 0 150) = false ∧ (st0 10 0x02 0x02).com 0 ≠ (st0 9 0x02 0).com 0 ∧
    (∀ j ∈ List.replicate 9 (Instr.step 0 0x04), isReset j = false) ∧
    ticksOn cfg95 0 (List.replicate 9 (.step 0 0x04)) ≤ 9 := ⟨rfl, by decide, by decide, by decide, by decide⟩

theorem witness_StepReturnsTheCommittedMaskAfterItsWrites :
    (0x02 : Byte) = (st0 9 0x02 0).last 0 ∧ ((st0 9 0x02 0).cnt 0).toNat = 9 ∧
    ¬ ((0x02 : Byte) = (st0 10 0x02 0x02).last 0 ∧ ((st0 10 0x02 0x02).cnt 0).toNat = 9) := by decide

theorem witness_FramingAgainChangesNothing :
    (st0 9 0x02 0).cfg.maxAxis = (st0 1 0x04 0x08).cfg.maxAxis ∧ (0x0400 : Half).toNat ≤ (0x0401 : Half).toNat := by decide

theorem witness_ClampAtTheEndsOfMaxAxis :
    (0x0400 : Half).toNat ≤ (0x0400 : Half).toNat ∧ (0x0400 : Half).toNat < (0x0401 : Half).toNat := by decide

theorem witness_ConfigurationIsNeverWritten :
    exec (.rst 0) (st0 9 0x02 0) = .next (st0 0 0 0) ∧
    (Host.Core.run Sys2Proof.core 1 (st0 9 0x02 0) : Host.Outcome State Fault Refusal) = .next (st0 9 0x02 0) := ⟨rfl, rfl⟩

theorem witness_OnlyTicksAndResetWriteRegisters :
    exec (.step 0 0x04) (st0 9 0x02 0) = .next { st0 1 0x04 0 with result := .mask 0 } ∧
    isReset (.step 0 0x04) = false ∧ (st0 1 0x04 0).chan 0 ≠ (st0 9 0x02 0).chan 0 := ⟨rfl, by decide, by decide⟩

/-- Two states that differ in all that `DEC` and `FRAME` do not read, and agree in what they read. -/
theorem witness_ResultsDependOnlyOnWhatIsRead :
    (st0 9 0x02 0).Consistent ∧ (st0 1 0x04 0x08).Consistent ∧ (st0 9 0x02 0).cfg.nch = (st0 1 0x04 0x08).cfg.nch ∧
    (after (.dec 0 150) (st0 9 0x02 0)).map Prod.snd = some (.mask 0x02) ∧
    (after (.dec 0 150) (st0 1 0x04 0x08)).map Prod.snd = some (.mask 0x02) := by decide

theorem witness_EveryStepKeepsTheInvariant :
    ({ st0 9 0x02 0 with pending := [encode (.step 0 0x02)] } : State).Inv ∧
    step { st0 9 0x02 0 with pending := [encode (.step 0 0x02)] } =
      .next { st0 10 0x02 0x02 with result := .mask 0x02 } := ⟨by decide, rfl⟩

/-- A run from reset that completes, on a channel of the block: the hypotheses of `CounterIsTheSaturatedRunLength`,
`CommittedMaskWasSeenTenTimesInARow`, `FirstNineTicksAfterResetReturnZero`, `TickedChannelsHoldOneHotMasks` and
`SteadyInputFromResetCommitsOnceAtTickTen`. -/
theorem witness_run_from_reset :
    1 < cfg95.nch ∧
    runOps [.tick 0 150, .tick 0 600] (State.boot cfg95) = .next { st0 1 0 0 with result := .mask 0 } ∧
    (rawHistory cfg95 0 [.tick 0 150, .tick 0 600]).length ≤ 9 ∧
    (∀ i ∈ [Instr.tick 0 150, .tick 0 600], ∀ raw, i ≠ .step 0 raw) := ⟨by decide, rfl, by decide, by decide⟩

/-- A run from reset that commits: the second disjunct of `CommittedMaskWasSeenTenTimesInARow`, at exactly ten ticks. -/
theorem witness_CommittedMaskWasSeenTenTimesInARow :
    runOps (List.replicate 10 (.step 0 0x02)) (State.boot cfg95) = .next { st0 10 0x02 0x02 with result := .mask 0x02 } ∧
    (st0 10 0x02 0x02).com 0 ≠ 0 ∧
    rawHistory cfg95 0 (List.replicate 10 (.step 0 0x02)) = [] ++ List.replicate 10 0x02 ++ [] := ⟨rfl, by decide, by decide⟩

/-- Both halves of `EveryStepKeepsTheHistoryOfAChannel`: the tick that commits, issued and presented; and a committed mask that
the history holds behind a later run. -/
theorem witness_EveryStepKeepsTheHistoryOfAChannel :
    (st0 9 0x02 0).Consistent ∧ ((st0 9 0x02 0).chan 0).AccountedBy (List.replicate 9 0x02) ∧
    exec (.step 0 0x02) (st0 9 0x02 0) = .next { st0 10 0x02 0x02 with result := .mask 0x02 } ∧
    ({ st0 9 0x02 0 with pending := [encode (.step 0 0x02)] } : State).nextOp = .ok (.step 0 0x02) ∧
    step { st0 9 0x02 0 with pending := [encode (.step 0 0x02)] } =
      .next { st0 10 0x02 0x02 with result := .mask 0x02 } ∧
    ((st0 1 0x04 0x02).chan 0).AccountedBy (0x04 :: List.replicate 10 0x02) :=
  ⟨by decide, ⟨by decide, by decide, .inl rfl⟩, rfl, by decide, rfl,
    ⟨by decide, by decide, .inr ⟨[0x04], [], by decide⟩⟩⟩

theorem witness_ChangeIsCommittedAtItsTenthTick :
    (st0 9 0x02 0).Consistent ∧ 0 < (st0 9 0x02 0).cfg.nch ∧ (0x04 : Byte) ≠ (st0 9 0x02 0).last 0 := by decide

theorem witness_GlitchAfterACommitIsInvisible :
    (st0 10 0x02 0x02).Consistent ∧ (st0 10 0x02 0x02).com 0 = 0x02 ∧ (st0 10 0x02 0x02).last 0 = 0x02 ∧
    10 ≤ ((st0 10 0x02 0x02).cnt 0).toNat ∧ (0x04 : Byte) ≠ 0x02 := by decide

theorem witness_AlternatingInputNeverCommits :
    List.IsChain (· ≠ ·) ((st0 9 0x02 0).last 0 :: [(0x01 : Byte), 0x02, 0x01]) := by decide

theorem witness_ResetValueOfLastIsUnobservable : ([0xFF, 0x02] : List Byte).length = cfg95.nch := by decide

theorem witness_OperationsOnDifferentChannelsCommute :
    (Instr.step 0 0x02).channel? = some 0 ∧ (Instr.tick 1 150).channel? = some 1 ∧ (0 : Nat) ≠ 1 := by decide

theorem witness_ChannelDependsOnlyOnItsOwnTicks :
    runOps [.rdc 0, .tick 1 0x0500, .step 0 0x02] (st0 9 0x02 0) =
      .next { st ⟨10, 0x02, 0x02⟩ ⟨1, 0x40, 0⟩ with result := .mask 0x02 } ∧
    runOps ([Instr.rdc 0, .tick 1 0x0500, .step 0 0x02].filter (fun i => (rawOn cfg95 0 i).isSome || isReset i))
      (st0 9 0x02 0) = .next { st0 10 0x02 0x02 with result := .mask 0x02 } := ⟨rfl, rfl⟩

theorem witness_RdcReturnsWhatTheLastTickReturned :
    exec (.step 0 0x02) (st0 9 0x02 0) = .next { st0 10 0x02 0x02 with result := .mask 0x02 } ∧
    (∀ i ∈ [Instr.nop, .dec 0 600, .reserved6], isReset i = false ∧ rawOn cfg95 0 i = none) ∧
    runOps [.nop, .dec 0 600, .reserved6] { st0 10 0x02 0x02 with result := .mask 0x02 } =
      .next { st0 10 0x02 0x02 with result := .notValid } := ⟨rfl, by decide, rfl⟩

end Sys2Proof.Tests
end

namespace Sys2Proof

/-! ### The decoder on what the encoder presents -/

theorem decodeChannel_of_fitsPort {w ch : Nat} {i : Instr} (h : fitsPort w ch = true) :
    decodeChannel w ch i = .ok i := by simp [decodeChannel, h]

/-- The row of R72 that an operation stands for. -/
def Instr.row : Instr → OpCode
  | .nop => .nop
  | .dec _ _ => .dec
  | .step _ _ => .step
  | .tick _ _ => .tick
  | .rdc _ => .rdc
  | .frame _ _ _ _ _ => .frame
  | .reserved6 => .reserved6
  | .reserved7 => .reserved7
  | .rst _ => .rst

/-- The control vector of an operation selects its row (R72). -/
theorem selectOp_ctl (i : Instr) : selectOp i.ctl = some i.row := by
  cases i with
  | rst op => revert op; decide
  | nop => decide
  | dec => show selectOp 0b0001 = some .dec; decide
  | step => show selectOp 0b0010 = some .step; decide
  | tick => show selectOp 0b0011 = some .tick; decide
  | rdc => show selectOp 0b0100 = some .rdc; decide
  | frame => show selectOp 0b0101 = some .frame; decide
  | reserved6 => decide
  | reserved7 => decide

theorem extractLsb'_ctl_rst (op : BitVec 3) : (Instr.rst op).ctl.extractLsb' 0 3 = op := by
  revert op; decide

/-- An operation that fits the ports survives encoding and decoding (R72, R74): `wellFormed` speaks of the channel operand
only, so it is used for the four operations that read one. -/
theorem decode_encode {w : Nat} {i : Instr} (h : i.wellFormed w = true) : decode w (encode i) = .ok i := by
  cases i with
  | dec => simp only [decode, encode, selectOp_ctl, Instr.row]; exact decodeChannel_of_fitsPort h
  | step => simp only [decode, encode, selectOp_ctl, Instr.row]; exact decodeChannel_of_fitsPort h
  | tick => simp only [decode, encode, selectOp_ctl, Instr.row]; exact decodeChannel_of_fitsPort h
  | rdc => simp only [decode, encode, selectOp_ctl, Instr.row]; exact decodeChannel_of_fitsPort h
  | rst => simp only [decode, encode, selectOp_ctl, Instr.row, extractLsb'_ctl_rst]
  | nop => simp only [decode, encode, selectOp_ctl, Instr.row]
  | frame => simp only [decode, encode, selectOp_ctl, Instr.row]
  | reserved6 => simp only [decode, encode, selectOp_ctl, Instr.row]
  | reserved7 => simp only [decode, encode, selectOp_ctl, Instr.row]

end Sys2Proof

namespace Sys2Proof.Machine

/-! ### What every operation leaves alone, and the caller's list in particular -/

/-- An operation on a channel completes, whether the channel exists or not (R80). -/
theorem onChannel_completes (s done : State) (ch : Nat) : ∃ t, s.onChannel ch done = .next t := by
  rcases Nat.lt_or_ge ch s.cfg.nch with h | h
  · exact ⟨done, onChannel_of_lt s done h⟩
  · exact ⟨s.noValidResult, onChannel_of_ge s done h⟩

/-- Every operation completes in every state (R185, R196). -/
theorem exec_completes (i : Instr) (s : State) : ∃ t, exec i s = .next t := by
  cases i with
  | dec ch => exact onChannel_completes s _ ch
  | step ch => exact onChannel_completes s _ ch
  | tick ch => exact onChannel_completes s _ ch
  | rdc ch => exact onChannel_completes s _ ch
  | nop => exact ⟨_, rfl⟩
  | frame => exact ⟨_, rfl⟩
  | reserved6 => exact ⟨_, rfl⟩
  | reserved7 => exact ⟨_, rfl⟩
  | rst => exact ⟨_, rfl⟩

/-- No operation writes the configuration (R27, R28, R57) or the caller's list (notes/assumptions/1.md). -/
theorem exec_keeps_cfg_and_pending {i : Instr} {s t : State} (h : exec i s = .next t) :
    t.cfg = s.cfg ∧ t.pending = s.pending := by
  cases i with
  | dec => rcases onChannel_cases h with ⟨_, rfl⟩ | ⟨_, rfl⟩ <;> exact ⟨rfl, rfl⟩
  | step => rcases onChannel_cases h with ⟨_, rfl⟩ | ⟨_, rfl⟩ <;> exact ⟨rfl, rfl⟩
  | tick => rcases onChannel_cases h with ⟨_, rfl⟩ | ⟨_, rfl⟩ <;> exact ⟨rfl, rfl⟩
  | rdc => rcases onChannel_cases h with ⟨_, rfl⟩ | ⟨_, rfl⟩ <;> exact ⟨rfl, rfl⟩
  | nop => cases h; exact ⟨rfl, rfl⟩
  | frame => cases h; exact ⟨rfl, rfl⟩
  | reserved6 => cases h; exact ⟨rfl, rfl⟩
  | reserved7 => cases h; exact ⟨rfl, rfl⟩
  | rst => cases h; exact ⟨rfl, rfl⟩

theorem onChannel_with_pending {s done t : State} {ch : Nat} (q : List Ports) (h : s.onChannel ch done = .next t) :
    ({ s with pending := q } : State).onChannel ch { done with pending := q } = .next { t with pending := q } := by
  rcases onChannel_cases h with ⟨hch, rfl⟩ | ⟨hch, rfl⟩
  · exact onChannel_of_lt _ _ hch
  · exact onChannel_of_ge _ _ hch

/-- No operation reads the caller's list: under another list it does the same and keeps that list. -/
theorem exec_with_pending {i : Instr} {s t : State} (q : List Ports) (h : exec i s = .next t) :
    exec i { s with pending := q } = .next { t with pending := q } := by
  cases i with
  | dec => exact onChannel_with_pending q h
  | step => exact onChannel_with_pending q h
  | tick => exact onChannel_with_pending q h
  | rdc => exact onChannel_with_pending q h
  | nop => cases h; rfl
  | frame => cases h; rfl
  | reserved6 => cases h; rfl
  | reserved7 => cases h; rfl
  | rst => cases h; rfl

/-! ### The step -/

/-- A step is the operation the decoder reads, on the state without the presentation (R11, R24). -/
theorem step_of_nextOp {s : State} {i : Instr} (h : s.nextOp = .ok i) : step s = exec i s.taken := by
  simp [step, h]

theorem nextOp_of_pending {s : State} {p : Ports} {rest : List Ports} (h : s.pending = p :: rest) :
    s.nextOp = decode s.cfg.chW p := by
  simp [State.nextOp, State.presented, h]

/-- Settles O8: the decoder reads the head of the caller's list, and `taken` leaves its tail. -/
theorem stepRunsThePresentedOperation : Obligations.StepRunsThePresentedOperation := by
  intro s p rest i hpending hdecode
  have htaken : s.taken = { s with pending := rest } := by simp [State.taken, hpending]
  rw [step_of_nextOp ((nextOp_of_pending hpending).trans hdecode), htaken]

/-- A step on an encoded operation performs it, with the rest of the list still to come. -/
theorem step_encode {s : State} {i : Instr} (rest : List Ports) (hwf : i.wellFormed s.cfg.chW = true) :
    step { s with pending := encode i :: rest } = exec i { s with pending := rest } :=
  stepRunsThePresentedOperation { s with pending := encode i :: rest } (encode i) rest i rfl (decode_encode hwf)

/-! ### The run -/

/-- One step of a run that goes on. -/
theorem run_succ {s t : State} (k : Nat) (h : step s = .next t) :
    Host.Core.run core (k + 1) s = Host.Core.run core k t := by
  have hcore : core.step s = .next t := h
  simp only [Host.Core.run, hcore]

/-- Settles O11, by induction on the operations: a step performs the first of them, which neither reads nor writes the
caller's list and keeps the configuration, so the rest is well formed and presented in the state it leaves. -/
theorem presentedRunIsTheOperationSequence : Obligations.PresentedRunIsTheOperationSequence := by
  intro s ops
  induction ops generalizing s with
  | nil => intro _; rfl
  | cons i ops ih =>
    intro hwf
    obtain ⟨hi, hops⟩ := List.forall_mem_cons.mp hwf
    obtain ⟨t, ht⟩ := exec_completes i { s with pending := [] }
    obtain ⟨hcfg, hpending⟩ := exec_keeps_cfg_and_pending ht
    have hnone : ({ t with pending := [] } : State) = t := congrArg (fun q => { t with pending := q }) hpending.symm
    have hstep := (step_encode (ops.map encode) hi).trans (exec_with_pending (s := { s with pending := [] }) _ ht)
    have hrest := ih t (by rwa [hcfg])
    rw [hnone] at hrest
    exact (run_succ ops.length hstep).trans (hrest.trans (runOps_cons ops ht).symm)

end Sys2Proof.Machine

namespace Sys2Proof.Machine

/-! ### What a step and a run can do -/

/-- All that a step that completes can do: perform the operation the decoder reads. -/
theorem exec_of_step {s t : State} (h : step s = .next t) : ∃ i, s.nextOp = .ok i ∧ exec i s.taken = .next t := by
  cases hop : s.nextOp with
  | ok i => exact ⟨i, rfl, by rwa [step_of_nextOp hop] at h⟩
  | error e => simp [step, hop] at h

/-- A run that completes completed its first step. -/
theorem step_of_run_succ {k : Nat} {s t : State} (h : Host.Core.run core (k + 1) s = .next t) :
    ∃ u, step s = .next u ∧ Host.Core.run core k u = .next t := by
  have hcore : core.step s = step s := rfl
  cases hstep : step s with
  | next u => exact ⟨u, rfl, by rwa [run_succ k hstep] at h⟩
  | fault f => cases f
  | refused r => simp [Host.Core.run, hcore, hstep] at h

/-- A sequence of operations that completes completed its first operation. -/
theorem exec_of_runOps_cons {i : Instr} {ops : List Instr} {s t : State} (h : runOps (i :: ops) s = .next t) :
    ∃ u, exec i s = .next u ∧ runOps ops u = .next t := by
  obtain ⟨u, hu⟩ := exec_completes i s
  exact ⟨u, hu, by rwa [runOps_cons ops hu] at h⟩

theorem exec_cfg {i : Instr} {s t : State} (h : exec i s = .next t) : t.cfg = s.cfg :=
  (exec_keeps_cfg_and_pending h).1

theorem step_cfg {s t : State} (h : step s = .next t) : t.cfg = s.cfg := by
  obtain ⟨i, -, hexec⟩ := exec_of_step h
  exact exec_cfg (s := s.taken) hexec

/-- Settles O41, by induction on the number of steps: an operation keeps the configuration, so a step does, so a run does. -/
theorem configurationIsNeverWritten : Obligations.ConfigurationIsNeverWritten := by
  refine ⟨fun i s t h => exec_cfg h, fun n => ?_⟩
  induction n with
  | zero => intro s t h; cases h; rfl
  | succ n ih =>
    intro s t h
    obtain ⟨u, hstep, hrun⟩ := step_of_run_succ h
    exact (ih u t hrun).trans (step_cfg hstep)

/-- Settles O9: the idle ports are what the encoder presents for `NOP`, and an empty list has nothing to take off. -/
theorem stepWithNothingPresentedIsNop : Obligations.StepWithNothingPresentedIsNop := by
  intro s hnone
  have hop : s.nextOp = .ok .nop := by
    have hidle : s.presented = encode .nop := by simp only [State.presented, hnone]; rfl
    rw [State.nextOp, hidle]
    exact decode_encode rfl
  have htaken : s.taken = s := by
    have htail : s.pending.tail = s.pending := by rw [hnone]; rfl
    simp only [State.taken, htail]
  rw [step_of_nextOp hop, htaken]

/-! ### The result field -/

/-- No operation reads the result field: each of them overwrites it. -/
theorem exec_with_result (i : Instr) (s : State) (r : Result) : exec i { s with result := r } = exec i s := by
  cases i <;> rfl

/-- Settles O44: neither an operation nor the choice of the operation reads the result field. -/
theorem earlierResultsAreNeverRead : Obligations.EarlierResultsAreNeverRead := by
  refine ⟨exec_with_result, fun s r => ?_⟩
  have hsame : ({ s with result := r } : State).nextOp = s.nextOp := rfl
  cases hop : s.nextOp with
  | ok i =>
    rw [step_of_nextOp hop, step_of_nextOp (hsame.trans hop)]
    exact exec_with_result i s.taken r
  | error e => simp only [step, hsame, hop]

/-- What an operation hands over (R75), by the committed masks it leaves behind (R123). -/
def resultOf (cfg : Config) (com : Nat → Byte) : Instr → Result
  | .nop | .rst _ => .none
  | .dec ch sample => if ch < cfg.nch then .mask ((cfg.table ch).decodeBand sample) else .notValid
  | .step ch _ | .tick ch _ | .rdc ch => if ch < cfg.nch then .mask (com ch) else .notValid
  | .frame a0 a1 a2 a3 btn => .record (frameRecord cfg.maxAxis a0 a1 a2 a3 btn)
  | .reserved6 | .reserved7 => .notValid

/-- An operation on a channel hands over its own result on a channel of the block, and no valid one elsewhere (R80). -/
theorem onChannel_result {s done t : State} {ch : Nat} (h : s.onChannel ch done = .next t) :
    t.result = if ch < s.cfg.nch then done.result else .notValid := by
  rcases onChannel_cases h with ⟨hch, rfl⟩ | ⟨hch, rfl⟩
  · rw [if_pos hch]
  · rw [if_neg (Nat.not_lt.mpr hch), noValidResult_result]

/-- A tick hands over the committed mask after its writes (R123). -/
theorem onChannel_debounce_result {s t : State} {ch : Nat} {raw : Byte}
    (h : s.onChannel ch (s.debounce ch raw) = .next t) :
    t.result = if ch < s.cfg.nch then .mask (t.com ch) else .notValid := by
  rcases onChannel_cases h with ⟨hch, rfl⟩ | ⟨hch, rfl⟩
  · rw [if_pos hch, debounce_result]
  · rw [if_neg (Nat.not_lt.mpr hch), noValidResult_result]

/-- `RDC` changes no committed mask, so the mask it hands over is the one it leaves. -/
theorem onChannel_rdc_result {s t : State} {ch : Nat} (h : s.onChannel ch (s.answer (.mask (s.com ch))) = .next t) :
    t.result = if ch < s.cfg.nch then .mask (t.com ch) else .notValid := by
  rcases onChannel_cases h with ⟨hch, rfl⟩ | ⟨hch, rfl⟩
  · rw [if_pos hch, answer_result, answer_com]
  · rw [if_neg (Nat.not_lt.mpr hch), noValidResult_result]

/-- The result of every operation. -/
theorem exec_result {i : Instr} {s t : State} (h : exec i s = .next t) : t.result = resultOf s.cfg t.com i := by
  cases i with
  | dec ch sample => exact onChannel_result h
  | step => exact onChannel_debounce_result h
  | tick => exact onChannel_debounce_result h
  | rdc => exact onChannel_rdc_result h
  | nop => cases h; rfl
  | frame => cases h; rfl
  | reserved6 => cases h; rfl
  | reserved7 => cases h; rfl
  | rst => cases h; rfl

/-- A result shows nothing but the committed masks of channels of the block. -/
theorem resultOf_congr {cfg : Config} {com com' : Nat → Byte} (h : ∀ c, c < cfg.nch → com c = com' c) (i : Instr) :
    resultOf cfg com i = resultOf cfg com' i := by
  have hmask (ch : Nat) : (if ch < cfg.nch then Result.mask (com ch) else .notValid) =
      if ch < cfg.nch then .mask (com' ch) else .notValid := by
    by_cases hch : ch < cfg.nch
    · rw [if_pos hch, if_pos hch, h ch hch]
    · rw [if_neg hch, if_neg hch]
  cases i with
  | step ch => exact hmask ch
  | tick ch => exact hmask ch
  | rdc ch => exact hmask ch
  | dec => rfl
  | nop => rfl
  | frame => rfl
  | reserved6 => rfl
  | reserved7 => rfl
  | rst => rfl

/-! ### One operation, seen from one channel -/

/-- What an operation makes of the registers of channel `c` (R175). -/
def Channel.afterOp (r : Channel) (cfg : Config) (c : Nat) (i : Instr) : Channel :=
  if isReset i then Channel.init else (rawOn cfg c i).elim r r.tick

theorem afterOp_of_reset (r : Channel) (cfg : Config) (c : Nat) {i : Instr} (h : isReset i = true) :
    r.afterOp cfg c i = Channel.init := if_pos h

theorem afterOp_of_tick (r : Channel) {cfg : Config} {c : Nat} {i : Instr} {raw : Byte} (h : isReset i = false)
    (hraw : rawOn cfg c i = some raw) : r.afterOp cfg c i = r.tick raw := by simp [Channel.afterOp, h, hraw]

theorem afterOp_of_idle (r : Channel) {cfg : Config} {c : Nat} {i : Instr} (h : isReset i = false)
    (hraw : rawOn cfg c i = none) : r.afterOp cfg c i = r := by simp [Channel.afterOp, h, hraw]

/-- An operation keeps a register set for each channel (R20). -/
theorem exec_consistent {i : Instr} {s t : State} (hs : s.Consistent) (h : exec i s = .next t) : t.Consistent := by
  have hlen := (exec_channel h 0).1
  rw [hs, ite_self] at hlen
  rw [State.Consistent, hlen, exec_cfg h]

/-- In a consistent state an operation does to each channel what `afterOp` says. -/
theorem exec_chan {i : Instr} {s t : State} {c : Nat} (hs : s.Consistent) (hc : c < s.cfg.nch)
    (h : exec i s = .next t) : t.chan c = (s.chan c).afterOp s.cfg c i := by
  rw [(exec_channel h c).2 (hs.symm ▸ hc) hc, Channel.afterOp]
  cases rawOn s.cfg c i <;> rfl

/-! ### The invariant -/

theorem init_settled : Channel.init.Settled := by decide

/-- A count of 10 or more after a tick is either the commit itself or the continuation of a committed run; and a tick never
leaves a count of 0. -/
theorem tick_settled {r : Channel} (h : r.Settled) (raw : Byte) : (r.tick raw).Settled := by
  obtain ⟨hcommitted, -⟩ := h
  have hcnt := tick_cnt r raw
  refine ⟨fun hten => ?_, fun hzero => ?_⟩
  · have hraw : raw = r.last := by
      by_contra hne
      rw [if_neg hne] at hcnt
      omega
    rw [if_pos hraw] at hcnt
    rw [tick_com, tick_last]
    by_cases hnine : r.cnt.toNat = 9
    · rw [if_pos ⟨hraw, hnine⟩]
    · rw [if_neg fun hcommit => hnine hcommit.2, hcommitted (by omega), hraw]
  · have hnone : (r.tick raw).cnt.toNat = 0 := by rw [hzero]; rfl
    split at hcnt <;> omega

theorem afterOp_settled {r : Channel} (h : r.Settled) (cfg : Config) (c : Nat) (i : Instr) :
    (r.afterOp cfg c i).Settled := by
  cases hreset : isReset i with
  | true => rw [afterOp_of_reset r cfg c hreset]; exact init_settled
  | false =>
    cases hraw : rawOn cfg c i with
    | some raw => rw [afterOp_of_tick r hreset hraw]; exact tick_settled h raw
    | none => rwa [afterOp_of_idle r hreset hraw]

/-- The invariant by channel numbers. -/
theorem inv_iff {s : State} : s.Inv ↔ s.Consistent ∧ ∀ c, c < s.cfg.nch → (s.chan c).Settled := by
  refine and_congr_right fun hs => ⟨fun h c hc => ?_, fun h r hr => ?_⟩
  · rw [chan_eq_getElem s c (hs.symm ▸ hc)]
    exact h _ (List.getElem_mem _)
  · obtain ⟨c, hc, rfl⟩ := List.mem_iff_getElem.mp hr
    rw [← chan_eq_getElem s c hc]
    exact h c (hs ▸ hc)

theorem exec_inv {i : Instr} {s t : State} (hs : s.Inv) (h : exec i s = .next t) : t.Inv := by
  obtain ⟨hcons, hsettled⟩ := inv_iff.mp hs
  refine inv_iff.mpr ⟨exec_consistent hcons h, fun c hc => ?_⟩
  rw [exec_cfg h] at hc
  rw [exec_chan hcons hc h]
  exact afterOp_settled (hsettled c hc) s.cfg c i

/-- Settles O46: a step is an operation on the state with the presentation taken off, which leaves the registers alone. -/
theorem everyStepKeepsTheInvariant : Obligations.EveryStepKeepsTheInvariant := by
  intro s t hs h
  obtain ⟨i, -, hexec⟩ := exec_of_step h
  exact exec_inv (s := s.taken) hs hexec

theorem boot_consistent (cfg : Config) : (State.boot cfg).Consistent := List.length_replicate

theorem boot_inv (cfg : Config) : (State.boot cfg).Inv := by
  refine inv_iff.mpr ⟨boot_consistent cfg, fun c _ => ?_⟩
  rw [chan_boot]
  exact init_settled

/-- Settles O45: every channel of the reset state holds the reset values. -/
theorem invariantHoldsAtReset : Obligations.InvariantHoldsAtReset := ⟨boot_inv _, boot_inv⟩

/-! ### The raw masks that account for a channel's registers -/

/-- The history of R128 grows by the raw mask of a tick; the commit at the count of ten finds ten equal masks at its head. -/
theorem tick_accountedBy {r : Channel} {h : List Byte} (hr : r.AccountedBy h) (raw : Byte) :
    (r.tick raw).AccountedBy (raw :: h) := by
  obtain ⟨hcnt, hlast, hcom⟩ := hr
  have hcnt' : (r.tick raw).cnt.toNat = min (runLength (raw :: h)) 255 := by
    rw [tick_cnt, hcnt, hlast, runLength_cons]
    cases h with
    | nil => by_cases hraw : raw = 0 <;> simp [runLength, hraw]
    | cons prev earlier =>
      by_cases hraw : raw = prev
      · simp [hraw]; omega
      · simp [hraw, Ne.symm hraw]
  refine ⟨hcnt', tick_last r raw, ?_⟩
  rw [tick_com]
  split
  case isTrue hcommit =>
    obtain ⟨hraw, hnine⟩ := hcommit
    rw [tick_cnt, if_pos hraw, hnine] at hcnt'
    obtain ⟨earlier, hrun⟩ := eq_replicate_append_of_le_runLength (n := 10) (h := raw :: h) (by omega)
    exact .inr ⟨[], earlier, hrun⟩
  case isFalse =>
    refine hcom.imp_right ?_
    rintro ⟨later, earlier, hseen⟩
    exact ⟨raw :: later, earlier, congrArg (raw :: ·) hseen⟩

theorem afterOp_accountedBy {r : Channel} {h : List Byte} (hr : r.AccountedBy h) (cfg : Config) (c : Nat) (i : Instr) :
    (r.afterOp cfg c i).AccountedBy (extendHistory cfg c h i) := by
  cases hreset : isReset i with
  | true => simpa [afterOp_of_reset r cfg c hreset, extendHistory, hreset] using init_accountedBy
  | false =>
    cases hraw : rawOn cfg c i with
    | some raw => simpa [afterOp_of_tick r hreset hraw, extendHistory, hreset, hraw] using tick_accountedBy hr raw
    | none => simpa [afterOp_of_idle r hreset hraw, extendHistory, hreset, hraw] using hr

/-- Along a run, the raw masks that account for a channel are extended operation by operation. -/
theorem runOps_accountedBy {ops : List Instr} {s t : State} {c : Nat} {h : List Byte} (hs : s.Consistent)
    (hc : c < s.cfg.nch) (hr : (s.chan c).AccountedBy h) (hrun : runOps ops s = .next t) :
    (t.chan c).AccountedBy (ops.foldl (extendHistory s.cfg c) h) := by
  induction ops generalizing s h with
  | nil => cases hrun; exact hr
  | cons i ops ih =>
    obtain ⟨u, hexec, hrest⟩ := exec_of_runOps_cons hrun
    have hcfg := exec_cfg hexec
    have hu : (u.chan c).AccountedBy (extendHistory s.cfg c h i) := by
      rw [exec_chan hs hc hexec]
      exact afterOp_accountedBy hr s.cfg c i
    rw [List.foldl_cons, ← hcfg]
    rw [← hcfg] at hu
    exact ih (exec_consistent hs hexec) (hcfg.symm ▸ hc) hu hrest

/-- From reset, a channel is accounted for by the raw masks of its ticks since the last `RST`. -/
theorem runOps_boot_accountedBy {cfg : Config} {ops : List Instr} {c : Nat} {t : State} (hc : c < cfg.nch)
    (hrun : runOps ops (State.boot cfg) = .next t) : (t.chan c).AccountedBy (rawHistory cfg c ops) :=
  runOps_accountedBy (boot_consistent cfg) hc (by rw [chan_boot]; exact init_accountedBy) hrun

/-- Settles O48: it is the clause on `COM` of the raw masks that account for the channel. -/
theorem committedMaskWasSeenTenTimesInARow : Obligations.CommittedMaskWasSeenTenTimesInARow := by
  intro cfg ops c t hc hrun
  exact (runOps_boot_accountedBy hc hrun).com

/-! ### The distance between two commits -/

/-- The next `n` ticks of the channel cannot commit, whatever their raw masks: the run has committed, and a new one would need
ten ticks, or it is too short to reach ten. -/
def Channel.QuietFor (r : Channel) (n : Nat) : Prop := (10 ≤ r.cnt.toNat ∧ n ≤ 9) ∨ r.cnt.toNat + n ≤ 9

theorem tick_com_of_quietFor {r : Channel} {n : Nat} (h : r.QuietFor (n + 1)) (raw : Byte) : (r.tick raw).com = r.com := by
  have hnine : r.cnt.toNat ≠ 9 := by rcases h with h | h <;> omega
  rw [tick_com, if_neg fun hcommit => hnine hcommit.2]

theorem tick_quietFor {r : Channel} {n : Nat} (h : r.QuietFor (n + 1)) (raw : Byte) : (r.tick raw).QuietFor n := by
  unfold Channel.QuietFor at h ⊢
  rw [tick_cnt]
  split <;> omega

/-- A tick that changes the committed mask brings the count to ten (R122). -/
theorem tick_cnt_of_com_ne {r : Channel} {raw : Byte} (h : (r.tick raw).com ≠ r.com) : (r.tick raw).cnt.toNat = 10 := by
  rw [tick_com] at h
  obtain ⟨hraw, hnine⟩ : raw = r.last ∧ r.cnt.toNat = 9 := by
    by_contra hno
    exact h (if_neg hno)
  rw [tick_cnt, if_pos hraw, hnine]
  rfl

theorem ticksOn_cons_tick {cfg : Config} {c : Nat} {i : Instr} {raw : Byte} (h : rawOn cfg c i = some raw)
    (ops : List Instr) : ticksOn cfg c (i :: ops) = ticksOn cfg c ops + 1 := by simp [ticksOn, h]

theorem ticksOn_cons_idle {cfg : Config} {c : Nat} {i : Instr} (h : rawOn cfg c i = none) (ops : List Instr) :
    ticksOn cfg c (i :: ops) = ticksOn cfg c ops := by simp [ticksOn, h]

/-- A run without `RST` whose ticks of the channel cannot commit keeps its committed mask. -/
theorem runOps_com_of_quietFor {ops : List Instr} {s t : State} {c : Nat} (hs : s.Consistent) (hc : c < s.cfg.nch)
    (hops : ∀ j ∈ ops, isReset j = false) (hquiet : (s.chan c).QuietFor (ticksOn s.cfg c ops))
    (hrun : runOps ops s = .next t) : t.com c = s.com c := by
  induction ops generalizing s with
  | nil => cases hrun; rfl
  | cons i ops ih =>
    obtain ⟨u, hexec, hrest⟩ := exec_of_runOps_cons hrun
    obtain ⟨hi, hops⟩ := List.forall_mem_cons.mp hops
    have hcfg := exec_cfg hexec
    have hu : (u.chan c).QuietFor (ticksOn s.cfg c ops) ∧ (u.chan c).com = (s.chan c).com := by
      rw [exec_chan hs hc hexec]
      cases hraw : rawOn s.cfg c i with
      | some raw =>
        rw [ticksOn_cons_tick hraw] at hquiet
        rw [afterOp_of_tick _ hi hraw]
        exact ⟨tick_quietFor hquiet raw, tick_com_of_quietFor hquiet raw⟩
      | none =>
        rw [ticksOn_cons_idle hraw] at hquiet
        rw [afterOp_of_idle _ hi hraw]
        exact ⟨hquiet, rfl⟩
    obtain ⟨huquiet, hucom⟩ := hu
    exact (ih (exec_consistent hs hexec) (hcfg.symm ▸ hc) hops (hcfg.symm ▸ huquiet) hrest).trans hucom

/-- An operation other than `RST` that changes a committed mask brings the channel's count to ten. -/
theorem exec_cnt_of_com_ne {i : Instr} {s t : State} {c : Nat} (hs : s.Consistent) (hc : c < s.cfg.nch)
    (hi : isReset i = false) (h : exec i s = .next t) (hne : t.com c ≠ s.com c) : (t.cnt c).toNat = 10 := by
  rw [State.com, State.com, exec_chan hs hc h] at hne
  rw [State.cnt, exec_chan hs hc h]
  cases hraw : rawOn s.cfg c i with
  | some raw =>
    rw [afterOp_of_tick _ hi hraw] at hne ⊢
    exact tick_cnt_of_com_ne hne
  | none => exact absurd (by rw [afterOp_of_idle _ hi hraw]) hne

/-- Settles O49: the commit leaves the count at ten, from which nine ticks cannot commit. -/
theorem commitsOfDifferentValuesAreTenTicksApart : Obligations.CommitsOfDifferentValuesAreTenTicksApart := by
  intro i ops s u t c hs hc hi hexec hne hops hticks hrun
  have hten : (u.cnt c).toNat = 10 := exec_cnt_of_com_ne hs hc hi hexec hne
  have hcfg := exec_cfg hexec
  have hquiet : (u.chan c).QuietFor (ticksOn u.cfg c ops) := .inl ⟨hten.ge, hcfg.symm ▸ hticks⟩
  exact runOps_com_of_quietFor (exec_consistent hs hexec) (hcfg.symm ▸ hc) hops hquiet hrun

/-! ### The reset value of `LAST` -/

/-- Two register sets that can differ in `LAST` only, and only before the first tick. -/
structure Channel.AgreesButLast (r r' : Channel) : Prop where
  cnt  : r.cnt = r'.cnt
  com  : r.com = r'.com
  last : r.cnt = 0 ∨ r.last = r'.last

theorem Channel.AgreesButLast.refl (r : Channel) : r.AgreesButLast r := ⟨rfl, rfl, .inr rfl⟩

/-- From a count of 0 both rules of R121 leave a count of 1 and commit nothing. -/
theorem tick_of_cnt_zero {r : Channel} (h : r.cnt = 0) (raw : Byte) : r.tick raw = ⟨1, raw, r.com⟩ := by
  by_cases hraw : raw = r.last
  · rw [tick_of_eq hraw (by rw [h]; decide), h, hraw]
    rfl
  · rw [tick_of_ne hraw]

/-- The first tick stores its raw mask, so after it two such register sets are the same. -/
theorem tick_eq_of_agreesButLast {r r' : Channel} (h : r.AgreesButLast r') (raw : Byte) : r.tick raw = r'.tick raw := by
  obtain ⟨hcnt, hcom, hzero | hlast⟩ := h
  · rw [tick_of_cnt_zero hzero, tick_of_cnt_zero (hcnt ▸ hzero), hcom]
  · cases r; cases r'; cases hcnt; cases hcom; cases hlast; rfl

theorem afterOp_agreesButLast {r r' : Channel} (h : r.AgreesButLast r') (cfg : Config) (c : Nat) (i : Instr) :
    (r.afterOp cfg c i).AgreesButLast (r'.afterOp cfg c i) := by
  cases hreset : isReset i with
  | true => rw [afterOp_of_reset r cfg c hreset, afterOp_of_reset r' cfg c hreset]; exact .refl _
  | false =>
    cases hraw : rawOn cfg c i with
    | some raw =>
      rw [afterOp_of_tick r hreset hraw, afterOp_of_tick r' hreset hraw, tick_eq_of_agreesButLast h raw]
      exact .refl _
    | none => rwa [afterOp_of_idle r hreset hraw, afterOp_of_idle r' hreset hraw]

/-- Two states of one configuration that can differ in the `LAST` of channels not yet ticked. -/
structure State.AgreesButLast (s s' : State) : Prop where
  cfg         : s.cfg = s'.cfg
  consistent  : s.Consistent
  consistent' : s'.Consistent
  chan        : ∀ c, c < s.cfg.nch → (s.chan c).AgreesButLast (s'.chan c)

/-- The simulation: an operation keeps the agreement and hands over the same result on both sides. -/
theorem exec_agreesButLast {i : Instr} {s s' t t' : State} (h : s.AgreesButLast s') (ht : exec i s = .next t)
    (ht' : exec i s' = .next t') : t.AgreesButLast t' ∧ t.result = t'.result := by
  obtain ⟨hcfg, hs, hs', hchan⟩ := h
  have hafter (c : Nat) (hc : c < s.cfg.nch) : (t.chan c).AgreesButLast (t'.chan c) := by
    rw [exec_chan hs hc ht, exec_chan hs' (hcfg ▸ hc) ht', ← hcfg]
    exact afterOp_agreesButLast (hchan c hc) s.cfg c i
  refine ⟨⟨?_, exec_consistent hs ht, exec_consistent hs' ht', fun c hc => hafter c (exec_cfg ht ▸ hc)⟩, ?_⟩
  · rw [exec_cfg ht, exec_cfg ht', hcfg]
  · rw [exec_result ht, exec_result ht', ← hcfg]
    exact resultOf_congr (fun c hc => (hafter c hc).com) i

theorem opResults_eq_of_agreesButLast (ops : List Instr) {s s' : State} (h : s.AgreesButLast s') :
    opResults ops s = opResults ops s' := by
  induction ops generalizing s s' with
  | nil => rfl
  | cons i ops ih =>
    obtain ⟨t, ht⟩ := exec_completes i s
    obtain ⟨t', ht'⟩ := exec_completes i s'
    obtain ⟨hagrees, hresult⟩ := exec_agreesButLast h ht ht'
    rw [opResults_cons ops ht, opResults_cons ops ht', hresult, ih hagrees]

/-- The reset state with other values of `LAST` agrees with the reset state. -/
theorem boot_lasts_agreesButLast {cfg : Config} {lasts : List Byte} (h : lasts.length = cfg.nch) :
    State.AgreesButLast { State.boot cfg with chans := lasts.map (fun l => ⟨0, l, 0⟩) } (State.boot cfg) := by
  refine ⟨rfl, by simpa [State.Consistent] using h, boot_consistent cfg, fun c hc => ?_⟩
  have hlen : c < lasts.length := h.symm ▸ hc
  have hread : ({ State.boot cfg with chans := lasts.map (fun l => ⟨0, l, 0⟩) } : State).chan c = ⟨0, lasts[c], 0⟩ := by
    simp [State.chan, hlen]
  rw [hread, chan_boot]
  exact ⟨rfl, rfl, .inl rfl⟩

/-- Settles O54: the two reset states agree but for `LAST`, which no result shows before a tick has overwritten it. -/
theorem resetValueOfLastIsUnobservable : Obligations.ResetValueOfLastIsUnobservable := by
  intro cfg lasts ops hlen
  exact opResults_eq_of_agreesButLast ops (boot_lasts_agreesButLast hlen)

end Sys2Proof.Machine

namespace Sys2Proof.Machine

/-! ### Two states that agree on one channel -/

/-- The operation is neither a tick of channel `c` nor `RST`: R175 lets it write no register of the channel. -/
abbrev IdleOn (cfg : Config) (c : Nat) (i : Instr) : Prop := isReset i = false ∧ rawOn cfg c i = none

/-- An operation on one channel is idle on every other (R60). -/
theorem idleOn_of_channel_ne {i : Instr} {c e : Nat} (hi : i.channel? = some c) (hne : e ≠ c) (cfg : Config) :
    IdleOn cfg e i := by
  cases i with
  | step ch => cases hi; exact ⟨rfl, if_neg hne.symm⟩
  | tick ch => cases hi; exact ⟨rfl, if_neg hne.symm⟩
  | dec => exact ⟨rfl, rfl⟩
  | rdc => exact ⟨rfl, rfl⟩
  | _ => cases hi

/-- `STEP` and `TICK` of a channel are one operation of their raw mask (R126). -/
theorem exec_of_rawOn {i : Instr} {s : State} {c : Nat} {raw : Byte} (h : rawOn s.cfg c i = some raw) :
    exec i s = s.onChannel c (s.debounce c raw) := by
  cases i with
  | step ch => obtain ⟨rfl, rfl⟩ := Option.ite_some_none_eq_some.mp h; rfl
  | tick ch => obtain ⟨rfl, rfl⟩ := Option.ite_some_none_eq_some.mp h; rfl
  | _ => cases h

/-- `RST` leaves the same registers whatever stood there before (R174). -/
theorem exec_chans_of_reset {i : Instr} {s t : State} (hi : isReset i = true) (h : exec i s = .next t) :
    t.chans = List.replicate s.cfg.nch Channel.init := by
  cases i with
  | rst => cases h; rfl
  | _ => cases hi

/-- Two states of one configuration with the same register set for channel `c`, or with none for it on either side. The
optional read keeps a missing register set apart from one that holds the reset values (notes/assumptions/14.md). -/
structure State.AgreesOn (c : Nat) (s s' : State) : Prop where
  cfg  : s.cfg = s'.cfg
  regs : s.chans[c]? = s'.chans[c]?

theorem State.AgreesOn.refl (c : Nat) (s : State) : s.AgreesOn c s := ⟨rfl, rfl⟩

theorem State.AgreesOn.symm {c : Nat} {s s' : State} (h : s.AgreesOn c s') : s'.AgreesOn c s :=
  ⟨h.cfg.symm, h.regs.symm⟩

theorem State.AgreesOn.trans {c : Nat} {s s' s'' : State} (h : s.AgreesOn c s') (h' : s'.AgreesOn c s'') :
    s.AgreesOn c s'' := ⟨h.cfg.trans h'.cfg, h.regs.trans h'.regs⟩

theorem State.AgreesOn.chan {c : Nat} {s s' : State} (h : s.AgreesOn c s') : s.chan c = s'.chan c := by
  rw [State.chan, State.chan, List.getD_eq_getElem?_getD, List.getD_eq_getElem?_getD, h.regs]

theorem State.AgreesOn.com {c : Nat} {s s' : State} (h : s.AgreesOn c s') : s.com c = s'.com c :=
  congrArg Channel.com h.chan

/-- A tick of another channel keeps the register set of channel `c`, whether the other channel exists or not. -/
theorem onChannel_debounce_agreesOn {s t : State} {ch c : Nat} {raw : Byte} (hne : ch ≠ c)
    (h : s.onChannel ch (s.debounce ch raw) = .next t) : t.AgreesOn c s := by
  rcases onChannel_cases h with ⟨-, rfl⟩ | ⟨-, rfl⟩
  · exact ⟨rfl, List.getElem?_set_ne hne⟩
  · exact ⟨rfl, rfl⟩

/-- The frame rule of R60 and R175: an operation that is idle on a channel keeps its register set, in every state. -/
theorem exec_agreesOn_of_idleOn {i : Instr} {s t : State} {c : Nat} (hi : IdleOn s.cfg c i) (h : exec i s = .next t) :
    t.AgreesOn c s := by
  obtain ⟨hreset, hraw⟩ := hi
  cases i with
  | step => exact onChannel_debounce_agreesOn (by simpa [rawOn] using hraw) h
  | tick => exact onChannel_debounce_agreesOn (by simpa [rawOn] using hraw) h
  | dec => rcases onChannel_cases h with ⟨-, rfl⟩ | ⟨-, rfl⟩ <;> exact ⟨rfl, rfl⟩
  | rdc => rcases onChannel_cases h with ⟨-, rfl⟩ | ⟨-, rfl⟩ <;> exact ⟨rfl, rfl⟩
  | nop => cases h; exact ⟨rfl, rfl⟩
  | frame => cases h; exact ⟨rfl, rfl⟩
  | reserved6 => cases h; exact ⟨rfl, rfl⟩
  | reserved7 => cases h; exact ⟨rfl, rfl⟩
  | rst => cases hreset

/-- What a tick leaves in its own channel depends on nothing but that channel and the configuration. -/
theorem onChannel_debounce_getElem? {s t : State} {c : Nat} {raw : Byte}
    (h : s.onChannel c (s.debounce c raw) = .next t) :
    t.chans[c]? = if c < s.cfg.nch then s.chans[c]?.map (fun _ => (s.chan c).tick raw) else s.chans[c]? := by
  rcases onChannel_cases h with ⟨hc, rfl⟩ | ⟨hc, rfl⟩
  · rw [if_pos hc, debounce_chans, List.getElem?_set_self']
    rfl
  · rw [if_neg (Nat.not_lt.mpr hc), noValidResult_chans]

/-- The simulation: the same operation on two states that agree on a channel leaves them in agreement on it. -/
theorem exec_agreesOn {i : Instr} {s s' t t' : State} {c : Nat} (hagree : s.AgreesOn c s') (h : exec i s = .next t)
    (h' : exec i s' = .next t') : t.AgreesOn c t' := by
  refine ⟨(exec_cfg h).trans (hagree.cfg.trans (exec_cfg h').symm), ?_⟩
  cases hreset : isReset i with
  | true => rw [exec_chans_of_reset hreset h, exec_chans_of_reset hreset h', hagree.cfg]
  | false =>
    cases hraw : rawOn s.cfg c i with
    | some raw =>
      rw [exec_of_rawOn hraw] at h
      rw [exec_of_rawOn (hagree.cfg ▸ hraw)] at h'
      rw [onChannel_debounce_getElem? h, onChannel_debounce_getElem? h', hagree.cfg, hagree.regs, hagree.chan]
    | none =>
      have hkeep := exec_agreesOn_of_idleOn ⟨hreset, hraw⟩ h
      have hkeep' := exec_agreesOn_of_idleOn ⟨hreset, hagree.cfg ▸ hraw⟩ h'
      exact (hkeep.trans (hagree.trans hkeep'.symm)).regs

/-! ### Operations on different channels -/

/-- The result of an operation on a channel shows the committed mask of no other channel. -/
theorem resultOf_congr_of_channel {i : Instr} {c : Nat} {com com' : Nat → Byte} (cfg : Config)
    (hi : i.channel? = some c) (h : com c = com' c) : resultOf cfg com i = resultOf cfg com' i := by
  cases i with
  | step => cases hi; simp only [resultOf, h]
  | tick => cases hi; simp only [resultOf, h]
  | rdc => cases hi; simp only [resultOf, h]
  | dec => rfl
  | nop => rfl
  | frame => rfl
  | reserved6 => rfl
  | reserved7 => rfl
  | rst => rfl

/-- An operation on a channel hands over the same result in two states that agree on the channel. -/
theorem exec_result_of_agreesOn {i : Instr} {s s' t t' : State} {c : Nat} (hi : i.channel? = some c)
    (hagree : s.AgreesOn c s') (h : exec i s = .next t) (h' : exec i s' = .next t') : t.result = t'.result := by
  rw [exec_result h, exec_result h', ← hagree.cfg]
  exact resultOf_congr_of_channel s.cfg hi (exec_agreesOn hagree h h').com

/-- On a channel where `j` is idle, `i` before `j` and `i` after `j` leave the same register set. -/
theorem exec_swap_agreesOn {i j : Instr} {s si sij sj sji : State} {e : Nat} (hj : ∀ cfg, IdleOn cfg e j)
    (hsi : exec i s = .next si) (hsij : exec j si = .next sij) (hsj : exec j s = .next sj)
    (hsji : exec i sj = .next sji) : sij.AgreesOn e sji :=
  have hsame : si.AgreesOn e sji := exec_agreesOn (exec_agreesOn_of_idleOn (hj s.cfg) hsj).symm hsi hsji
  (exec_agreesOn_of_idleOn (hj si.cfg) hsij).trans hsame

/-- Settles O56: on every channel one of the two operations is idle, and each of them finds its own channel as it was. -/
theorem operationsOnDifferentChannelsCommute : Obligations.OperationsOnDifferentChannelsCommute := by
  intro i j c d s hi hj hcd
  obtain ⟨si, hsi⟩ := exec_completes i s
  obtain ⟨sij, hsij⟩ := exec_completes j si
  obtain ⟨sj, hsj⟩ := exec_completes j s
  obtain ⟨sji, hsji⟩ := exec_completes i sj
  refine ⟨si, sij, sj, sji, hsi, hsij, hsj, hsji, List.ext_getElem? fun e => ?_, ?_, ?_⟩
  · rcases eq_or_ne e d with rfl | hed
    · exact (exec_swap_agreesOn (idleOn_of_channel_ne hi hcd.symm) hsj hsji hsi hsij).symm.regs
    · exact (exec_swap_agreesOn (idleOn_of_channel_ne hj hed) hsi hsij hsj hsji).regs
  · have hkeep : sj.AgreesOn c s := exec_agreesOn_of_idleOn (idleOn_of_channel_ne hj hcd s.cfg) hsj
    exact exec_result_of_agreesOn hi hkeep.symm hsi hsji
  · have hkeep : si.AgreesOn d s := exec_agreesOn_of_idleOn (idleOn_of_channel_ne hi hcd.symm s.cfg) hsi
    exact exec_result_of_agreesOn hj hkeep hsij hsj

/-! ### A channel along a run -/

/-- The operation is a tick of channel `c` or `RST`: the operations that write its registers (R175). -/
def touches (cfg : Config) (c : Nat) (i : Instr) : Bool := (rawOn cfg c i).isSome || isReset i

theorem touches_eq_false_iff {cfg : Config} {c : Nat} {i : Instr} : touches cfg c i = false ↔ IdleOn cfg c i := by
  simp [touches, IdleOn, and_comm]

/-- A run agrees on a channel with the run of its touching operations alone, if the two start in agreement. -/
theorem runOps_agreesOn_filter_touches {ops : List Instr} {s s' t u : State} {c : Nat} (hagree : s.AgreesOn c s')
    (hrun : runOps ops s = .next t) (hrun' : runOps (ops.filter (touches s.cfg c)) s' = .next u) :
    t.AgreesOn c u := by
  induction ops generalizing s s' with
  | nil => cases hrun; cases hrun'; exact hagree
  | cons i ops ih =>
    obtain ⟨v, hexec, hrest⟩ := exec_of_runOps_cons hrun
    cases htouch : touches s.cfg c i with
    | true =>
      rw [List.filter_cons_of_pos htouch] at hrun'
      obtain ⟨v', hexec', hrest'⟩ := exec_of_runOps_cons hrun'
      rw [← exec_cfg hexec] at hrest'
      exact ih (exec_agreesOn hagree hexec hexec') hrest hrest'
    | false =>
      rw [List.filter_cons_of_neg (by simp [htouch]), ← exec_cfg hexec] at hrun'
      have hkeep := exec_agreesOn_of_idleOn (touches_eq_false_iff.mp htouch) hexec
      exact ih (hkeep.trans hagree) hrest hrun'

/-- Settles O57, from agreement on the whole register set of the channel. -/
theorem channelDependsOnlyOnItsOwnTicks : Obligations.ChannelDependsOnlyOnItsOwnTicks := by
  intro ops s t u c hrun hrun'
  exact (runOps_agreesOn_filter_touches (.refl c s) hrun hrun').chan

/-- A run of operations that are idle on a channel keeps its register set. -/
theorem runOps_agreesOn_of_idleOn {ops : List Instr} {s t : State} {c : Nat} (hops : ∀ i ∈ ops, IdleOn s.cfg c i)
    (hrun : runOps ops s = .next t) : t.AgreesOn c s := by
  refine runOps_induction (P := fun v => v.AgreesOn c s) (.refl c s) (fun i hi v w hv hexec => ?_) hrun
  exact (exec_agreesOn_of_idleOn (hv.cfg.symm ▸ hops i hi) hexec).trans hv

/-- Settles O59: both results are the committed mask the operation leaves behind, and nothing in between touches it. -/
theorem rdcReturnsWhatTheLastTickReturned : Obligations.RdcReturnsWhatTheLastTickReturned := by
  intro ops s u v ch raw _ hch hstep hops hrun
  obtain ⟨t, hrdc⟩ := exec_completes (.rdc ch) v
  have hcfg := exec_cfg hstep
  have hrunKeeps : v.AgreesOn ch u := runOps_agreesOn_of_idleOn (hcfg.symm ▸ hops) hrun
  have hrdcKeeps : t.AgreesOn ch v := exec_agreesOn_of_idleOn ⟨rfl, rfl⟩ hrdc
  refine ⟨t, hrdc, ?_⟩
  calc t.result = resultOf v.cfg t.com (.rdc ch) := exec_result hrdc
    _ = resultOf s.cfg u.com (.rdc ch) := by
      rw [hrunKeeps.cfg, hcfg]
      exact resultOf_congr_of_channel s.cfg rfl (hrdcKeeps.trans hrunKeeps).com
    _ = resultOf s.cfg u.com (.step ch raw) := rfl
    _ = u.result := (exec_result hstep).symm

end Sys2Proof.Machine

namespace Sys2Proof

/-! ### The decoder, row by row -/

/-- The operation of a row of R72 with the operands that stand on the ports (R74). -/
def Ports.asRow (p : Ports) : OpCode → Instr
  | .nop => .nop
  | .dec => .dec p.ch p.sample
  | .step => .step p.ch p.rawIn
  | .tick => .tick p.ch p.sample
  | .rdc => .rdc p.ch
  | .frame => .frame p.a0 p.a1 p.a2 p.a3 p.btn
  | .reserved6 => .reserved6
  | .reserved7 => .reserved7
  | .rst => .rst (p.ctl.extractLsb' 0 3)

/-- The sixteen control vectors are all accounted for (R72). -/
theorem selectOp_total (ctl : BitVec 4) : ∃ op, selectOp ctl = some op := by
  refine Option.isSome_iff_exists.mp ?_
  revert ctl; decide

/-- Bit 3 alone selects `RST` (R174, D13). -/
theorem selectOp_of_getLsbD_three {ctl : BitVec 4} (h : ctl.getLsbD 3 = true) : selectOp ctl = some .rst := by
  revert ctl; decide

/-- All that decoding can do: give the selected row's operation, or refuse a channel number that does not fit the port. -/
theorem decode_of_selectOp {p : Ports} {op : OpCode} (h : selectOp p.ctl = some op) (w : Nat) :
    decode w p = if (p.asRow op).wellFormed w then .ok (p.asRow op) else .error .channelTooWide := by
  cases op <;> simp only [decode, h] <;> rfl

/-- The row a control vector selects, and for `RST` the bits it leaves free, determine the vector: the converse of
`selectOp_ctl`. -/
theorem ctl_asRow {p : Ports} {op : OpCode} (h : selectOp p.ctl = some op) : (p.asRow op).ctl = p.ctl := by
  have hrows : ∀ ctl : BitVec 4, selectOp ctl = some op → ({ Ports.idle with ctl := ctl }.asRow op).ctl = ctl := by
    cases op <;> decide
  have hctl : (p.asRow op).ctl = ({ Ports.idle with ctl := p.ctl }.asRow op).ctl := by cases op <;> rfl
  rw [hctl, hrows p.ctl h]

/-- An operation that decodes is its row's, and fits the channel port. -/
theorem asRow_of_decode {w : Nat} {p : Ports} {i : Instr} (h : decode w p = .ok i) :
    ∃ op, selectOp p.ctl = some op ∧ i = p.asRow op ∧ i.wellFormed w = true := by
  obtain ⟨op, hop⟩ := selectOp_total p.ctl
  rw [decode_of_selectOp hop] at h
  split at h
  · next hwf => cases h; exact ⟨op, hop, rfl, hwf⟩
  · cases h

/-- A channel number that fits the port keeps no row from decoding. -/
theorem decode_of_fitsPort {w : Nat} {p : Ports} {op : OpCode} (hch : fitsPort w p.ch = true)
    (h : selectOp p.ctl = some op) : decode w p = .ok (p.asRow op) := by
  have hwf : (p.asRow op).wellFormed w = true := by
    cases op with
    | dec | step | tick | rdc => exact hch
    | nop | frame | reserved6 | reserved7 | rst => rfl
  rw [decode_of_selectOp h, if_pos hwf]

/-- Settles O1, which is the round trip of every constructor. -/
theorem decodeOfEncodeIsTheOperation : Obligations.DecodeOfEncodeIsTheOperation :=
  fun _ _ hwf => decode_encode hwf

/-- Settles O2: the row gives back the control vector, and its operands are the ports it reads. -/
theorem encodeOfDecodedIsThePresentation : Obligations.EncodeOfDecodedIsThePresentation := by
  intro w p i hdecode
  obtain ⟨op, hop, rfl, hwf⟩ := asRow_of_decode hdecode
  refine ⟨hwf, ?_⟩
  rw [← ctl_asRow hop]
  cases op <;> rfl

/-- Settles O4: both presentations select the same row, and the hypotheses give the row the same operands. -/
theorem unreadOperandPortsHaveNoEffect : Obligations.UnreadOperandPortsHaveNoEffect := by
  intro w p q hctl hch hsample hraw hframe
  obtain ⟨op, hop⟩ := selectOp_total p.ctl
  have hrow : (p.asRow op).ctl = p.ctl := ctl_asRow hop
  have hsame : p.asRow op = q.asRow op := by
    cases op with
    | dec => exact congrArg₂ Instr.dec (hch (.inl hrow.symm)) (hsample (.inl hrow.symm))
    | step => exact congrArg₂ Instr.step (hch (.inr (.inl hrow.symm))) (hraw hrow.symm)
    | tick => exact congrArg₂ Instr.tick (hch (.inr (.inr (.inl hrow.symm)))) (hsample (.inr hrow.symm))
    | rdc => exact congrArg Instr.rdc (hch (.inr (.inr (.inr hrow.symm))))
    | frame =>
      obtain ⟨h0, h1, h2, h3, hbtn⟩ := hframe hrow.symm
      simp only [Ports.asRow, h0, h1, h2, h3, hbtn]
    | rst => simp only [Ports.asRow, hctl]
    | nop | reserved6 | reserved7 => rfl
  rw [decode_of_selectOp hop, decode_of_selectOp (hctl ▸ hop), hsame]

/-- Settles O3: every row decodes, since the channel number fits the port. -/
theorem everyControlVectorSelectsItsRow : Obligations.EveryControlVectorSelectsItsRow := by
  intro w p hch hw
  have row {op : OpCode} (hop : selectOp p.ctl = some op) : decode w p = .ok (p.asRow op) :=
    decode_of_fitsPort ((Laws.fitsPort_iff hw).mpr hch) hop
  exact ⟨fun h => row (op := .nop) (by rw [h]; rfl), fun h => row (op := .dec) (by rw [h]; rfl),
    fun h => row (op := .step) (by rw [h]; rfl), fun h => row (op := .tick) (by rw [h]; rfl),
    fun h => row (op := .rdc) (by rw [h]; rfl), fun h => row (op := .frame) (by rw [h]; rfl),
    fun h => row (op := .reserved6) (by rw [h]; rfl), fun h => row (op := .reserved7) (by rw [h]; rfl),
    fun h => ⟨_, row (selectOp_of_getLsbD_three h)⟩⟩

/-! ### The words of the table -/

/-- A word that is the encoder's presentation of an operation decodes to that operation. -/
theorem decodeTableWord_of_encode {nbits word : Nat} {i : Instr} (hword : Ports.ofWord nbits word = encode i)
    (hwf : i.wellFormed 1 = true) : decodeTableWord nbits word = some i := by
  rw [decodeTableWord, hword, decode_encode hwf]

/-- Settles O5: each word is what the encoder presents for its row's operation. -/
theorem writtenWordsDecodeToTheirRows : Obligations.WrittenWordsDecodeToTheirRows :=
  ⟨decodeTableWord_of_encode rfl rfl, decodeTableWord_of_encode rfl rfl, decodeTableWord_of_encode rfl rfl,
    decodeTableWord_of_encode rfl rfl, decodeTableWord_of_encode rfl rfl, decodeTableWord_of_encode rfl rfl⟩

/-! ### The channel port -/

/-- The channel port carries the number of every channel of the block (R74). -/
theorem fitsPort_chW {cfg : Config} {ch : Nat} (h : ch < cfg.nch) : fitsPort cfg.chW ch = true := by
  refine (Laws.fitsPort_iff (Laws.one_le_chW cfg)).mpr ?_
  calc ch < cfg.nch := h
    _ ≤ 2 ^ Nat.clog 2 cfg.nch := Nat.le_pow_clog (by decide) _
    _ ≤ 2 ^ cfg.chW := Nat.pow_le_pow_right (by decide) (Laws.chW_eq cfg ▸ le_max_right _ _)

/-- Settles O6: a legal operation names an existing channel, if it names one. -/
theorem everyLegalOperationCanBePresented : Obligations.EveryLegalOperationCanBePresented := by
  intro cfg i hlegal
  cases i with
  | dec | step | tick | rdc => exact fitsPort_chW (of_decide_eq_true hlegal)
  | nop | frame | reserved6 | reserved7 | rst => rfl

/-! ### The word form of a table entry, and the mask -/

/-- Settles O7: the word's two parts are the two fields, and side by side they are the whole word. -/
theorem tableEntryWordAndEntryAgree : Obligations.TableEntryWordAndEntryAgree := by
  refine ⟨fun e => ?_, fun w => ?_⟩
  · exact congrArg₂ BandEntry.mk BitVec.extractLsb'_append_eq_right BitVec.extractLsb'_append_eq_left
  · have hjoin : w.extractLsb' 16 4 ++ w.extractLsb' 0 16 = w.extractLsb' 0 (4 + 16) :=
      BitVec.extractLsb'_append_extractLsb'_eq_extractLsb' rfl
    exact hjoin.trans BitVec.extractLsb'_eq_self

/-- A mapping sets its own bit, or none if the mask has no such bit (R78, R105). -/
theorem oneHot8_emptyOrOneHot (m : BitVec 4) : emptyOrOneHot (oneHot8 m) := by
  rcases Nat.lt_or_ge m.toNat 8 with h | h
  · exact .inr ⟨m.toNat, h, rfl⟩
  · refine .inl (BitVec.eq_of_toNat_eq ?_)
    simpa [oneHot8] using Nat.mod_eq_zero_of_dvd (pow_dvd_pow 2 h)

/-- All that a decode can give: no bit, or the bit of one entry's mapping (R101, R104). -/
theorem decodeBand_cases (t : BandTable) (sample : Half) :
    t.decodeBand sample = 0 ∨ ∃ e ∈ t.entries, t.decodeBand sample = oneHot8 e.map := by
  unfold BandTable.decodeBand
  split
  · next e he => exact .inr ⟨e, List.mem_of_getElem? he, rfl⟩
  · exact .inl rfl

/-- Settles O25: a decode sets the bit of at most one entry's mapping, and a mapping has at most one bit. -/
theorem decodedMaskIsEmptyOrOneHot : Obligations.DecodedMaskIsEmptyOrOneHot := by
  intro t sample
  rcases decodeBand_cases t sample with hnone | ⟨e, -, he⟩
  · exact .inl hnone
  · exact he ▸ oneHot8_emptyOrOneHot e.map

end Sys2Proof

namespace Sys2Proof.Machine

/-! ### The reserved encodings -/

/-- Settles O15: both arms are the hardware's column of R80. -/
theorem reservedCodesChangeNothing : Obligations.ReservedCodesChangeNothing := fun _ => ⟨rfl, rfl⟩

/-- Settles O16: each of the four operations is one on a channel that the block does not have. -/
theorem reservedChannelsChangeNothing : Obligations.ReservedChannelsChangeNothing := fun s _ _ _ hch =>
  ⟨onChannel_of_ge s _ hch, onChannel_of_ge s _ hch, onChannel_of_ge s _ hch, onChannel_of_ge s _ hch⟩

end Sys2Proof.Machine

namespace Sys2Proof

/-! ### The comparators and the leading run -/

/-- The leading run reaches `n` exactly when the first `n` comparators fire (R101). -/
theorem le_leadingRun_iff {l : List Bool} {n : Nat} : n ≤ leadingRun l ↔ ∀ j < n, l[j]? = some true := by
  induction l generalizing n with
  | nil =>
    cases n with
    | zero => simp
    | succ n => rw [Nat.forall_lt_succ_left]; simp
  | cons b l ih =>
    cases n with
    | zero => simp
    | succ n => rw [Nat.forall_lt_succ_left]; cases b <;> simp [ih]

/-- A priority encoder and a population count agree on a thermometer code (R103, R106). -/
theorem leadingRun_eq_count {l : List Bool} (h : l.Pairwise fun a b => b = true → a = true) :
    leadingRun l = l.count true := by
  induction l with
  | nil => rfl
  | cons b l ih =>
    obtain ⟨hhead, htail⟩ := List.pairwise_cons.mp h
    cases b with
    | true => simp [ih htail]
    | false => simpa [List.count_eq_zero, eq_comm] using hhead

/-- The five comparators, each the unsigned and strict comparison of R102. -/
theorem cmp_eq_ofFn (t : BandTable) (sample : Half) :
    t.cmp sample = List.ofFn fun i : Fin 5 => decide ((t.entry i).thr.toNat < sample.toNat) := rfl

theorem cmp_getElem? (t : BandTable) (sample : Half) (i : Fin 5) :
    (t.cmp sample)[i.val]? = some (decide ((t.entry i).thr.toNat < sample.toNat)) := by
  rw [cmp_eq_ofFn, List.getElem?_ofFn, dif_pos i.isLt]

/-- Settles O19: equality is the case in which neither number is below the other. -/
theorem comparatorsAreUnsignedAndStrict : Obligations.ComparatorsAreUnsignedAndStrict := by
  intro t sample i
  refine ⟨cmp_getElem? t sample i, fun heq => ?_⟩
  rw [cmp_getElem?, heq, decide_eq_false (lt_irrefl _)]

/-! ### The band of a sample, for every table -/

/-- The band reaches `n` exactly when the sample exceeds the first `n` thresholds: the leading run of R101. -/
theorem le_band_iff {t : BandTable} {sample : Half} {n : Nat} (hn : n ≤ 5) :
    n ≤ t.band sample ↔ ∀ j : Fin 5, j.val < n → (t.entry j).thr.toNat < sample.toNat := by
  unfold BandTable.band
  rw [le_leadingRun_iff]
  constructor
  · intro h j hj
    simpa [cmp_getElem?] using h j hj
  · intro h j hj
    simpa [h ⟨j, by omega⟩ hj] using cmp_getElem? t sample ⟨j, by omega⟩

/-- The other wording of R101: the band is the index of the first entry whose threshold the sample does not exceed. -/
theorem band_eq_index_iff {t : BandTable} {sample : Half} {k : Fin 5} :
    t.band sample = k.val ↔
      (∀ j, j < k → (t.entry j).thr.toNat < sample.toNat) ∧ sample.toNat ≤ (t.entry k).thr.toNat := by
  have hreach := le_band_iff (t := t) (sample := sample) (n := k.val) (by omega)
  have hpass := le_band_iff (t := t) (sample := sample) (n := k.val + 1) (by omega)
  constructor
  · intro hband
    have hbelow := hreach.mp hband.ge
    refine ⟨hbelow, Nat.not_lt.mp fun hk => ?_⟩
    have : k.val + 1 ≤ t.band sample := hpass.mpr fun j hj => by
      rcases Nat.lt_succ_iff_lt_or_eq.mp hj with hlt | heq
      · exact hbelow j hlt
      · exact Fin.ext heq ▸ hk
    omega
  · rintro ⟨hbelow, hk⟩
    have hle : k.val ≤ t.band sample := hreach.mpr hbelow
    have hlt : ¬ k.val + 1 ≤ t.band sample := fun h => (hpass.mp h k (Nat.lt_succ_self _)).not_ge hk
    omega

/-- A threshold that the sample does not exceed bounds the band by its index. -/
theorem band_le_of_le_thr {t : BandTable} {sample : Half} {k : Fin 5} (h : sample.toNat ≤ (t.entry k).thr.toNat) :
    t.band sample ≤ k.val :=
  Nat.not_lt.mp fun hlt => ((le_band_iff k.isLt).mp hlt k (Nat.lt_succ_self _)).not_ge h

/-- Band 5 is that of the samples above every threshold (R104). -/
theorem band_eq_five_iff {t : BandTable} {sample : Half} :
    t.band sample = 5 ↔ ∀ k : Fin 5, (t.entry k).thr.toNat < sample.toNat := by
  calc t.band sample = 5 ↔ 5 ≤ t.band sample := ⟨fun h => h.ge, fun h => le_antisymm (band_le_five t sample) h⟩
    _ ↔ ∀ k : Fin 5, k.val < 5 → (t.entry k).thr.toNat < sample.toNat := le_band_iff le_rfl
    _ ↔ ∀ k : Fin 5, (t.entry k).thr.toNat < sample.toNat := forall_congr' fun k => forall_prop_of_true k.isLt

/-- A band is the index of an entry, or 5. -/
theorem band_index_or_five (t : BandTable) (sample : Half) :
    (∃ k : Fin 5, t.band sample = k.val) ∨ t.band sample = 5 := by
  rcases (band_le_five t sample).lt_or_eq with h | h
  · exact .inl ⟨⟨_, h⟩, rfl⟩
  · exact .inr h

/-- Settles O23: what a smaller sample exceeds, a larger one exceeds too. -/
theorem bandIsMonotoneInTheSample : Obligations.BandIsMonotoneInTheSample := by
  intro t a b hab
  have hfired := (le_band_iff (band_le_five t a)).mp le_rfl
  exact (le_band_iff (band_le_five t a)).mpr fun j hj => (hfired j hj).trans_le hab

/-- Settles O26: each clause is the place of the first threshold that the sample does not exceed; no sample exceeds 65535. -/
theorem bandAtTheEndsOfTheRange : Obligations.BandAtTheEndsOfTheRange := by
  intro t
  have htop (i : Fin 5) (h : (t.entry i).thr.toNat ≠ 65535) : (t.entry i).thr.toNat < (65535 : Half).toNat := by
    bv_omega
  refine ⟨?_, fun i sample hi => ?_, fun i hi hfirst => ?_, fun hnone => ?_, fun x sample hx => ?_⟩
  · exact Nat.le_zero.mp (band_le_of_le_thr (k := 0) (Nat.zero_le _))
  · exact band_le_of_le_thr (hi ▸ Nat.le_of_lt_succ sample.isLt)
  · exact band_eq_index_iff.mpr ⟨fun j hj => htop j (hfirst j hj), hi.ge⟩
  · exact band_eq_five_iff.mpr fun i => htop i (hnone i)
  · split
    · next hle => exact Nat.le_zero.mp (band_le_of_le_thr (k := 0) (hx 0 ▸ hle))
    · next hgt => exact band_eq_five_iff.mpr fun i => hx i ▸ Nat.not_le.mp hgt

/-! ### Sorted tables -/

theorem sorted_monotone {t : BandTable} (h : t.sorted = true) : Monotone fun k => (t.entry k).thr.toNat := by
  simp only [BandTable.sorted, Bool.and_eq_true, decide_eq_true_eq] at h
  obtain ⟨⟨⟨h01, h12⟩, h23⟩, h34⟩ := h
  refine Fin.monotone_iff_le_succ.mpr fun i => ?_
  match i with
  | 0 => exact h01
  | 1 => exact h12
  | 2 => exact h23
  | 3 => exact h34

/-- On a sorted table one comparison decides whether the sample is above band `k`. -/
theorem lt_band_iff_of_sorted {t : BandTable} (h : t.sorted = true) (sample : Half) (k : Fin 5) :
    k.val < t.band sample ↔ (t.entry k).thr.toNat < sample.toNat := by
  constructor
  · intro hk
    exact (le_band_iff k.isLt).mp hk k (Nat.lt_succ_self _)
  · intro hk
    refine (le_band_iff k.isLt).mpr fun j hj => ?_
    calc (t.entry j).thr.toNat ≤ (t.entry k).thr.toNat := sorted_monotone h (Nat.le_of_lt_succ hj)
      _ < sample.toNat := hk

/-- The comparators of a sorted table are a thermometer code (R103). -/
theorem cmp_thermometer {t : BandTable} (h : t.sorted = true) (sample : Half) :
    (t.cmp sample).Pairwise fun a b => b = true → a = true := by
  rw [cmp_eq_ofFn, List.pairwise_ofFn]
  intro i j hij hj
  exact decide_eq_true ((sorted_monotone h hij.le).trans_lt (of_decide_eq_true hj))

/-- Settles O22: the count by the thermometer code, the intervals by one comparison at each end. -/
theorem sortedBandsAreTheIntervals : Obligations.SortedBandsAreTheIntervals := by
  intro t sample hsorted
  have h0 : 0 < t.band sample ↔ t.e0.thr.toNat < sample.toNat := lt_band_iff_of_sorted hsorted sample 0
  have h1 : 1 < t.band sample ↔ t.e1.thr.toNat < sample.toNat := lt_band_iff_of_sorted hsorted sample 1
  have h2 : 2 < t.band sample ↔ t.e2.thr.toNat < sample.toNat := lt_band_iff_of_sorted hsorted sample 2
  have h3 : 3 < t.band sample ↔ t.e3.thr.toNat < sample.toNat := lt_band_iff_of_sorted hsorted sample 3
  have h4 : 4 < t.band sample ↔ t.e4.thr.toNat < sample.toNat := lt_band_iff_of_sorted hsorted sample 4
  have h5 := band_le_five t sample
  refine ⟨leadingRun_eq_count (cmp_thermometer hsorted sample), ?_, ?_, ?_, ?_, ?_, ?_⟩ <;> omega

/-! ### The mask of a band -/

/-- The bits of `trunc_8(1 << m)` (R78, R105). -/
theorem oneHot8_getLsbD (m : BitVec 4) (k : Nat) :
    (oneHot8 m).getLsbD k = (decide (k < 8) && decide (m.toNat = k)) := by
  rw [oneHot8, BitVec.getLsbD_ofNat, Nat.testBit_two_pow]

theorem oneHot8_eq_zero_iff {m : BitVec 4} : oneHot8 m = 0 ↔ 8 ≤ m.toNat := by
  constructor
  · intro hzero
    refine Nat.not_lt.mp fun hlt => ?_
    have hbit := oneHot8_getLsbD m m.toNat
    simp [hzero, hlt] at hbit
  · intro hge
    refine BitVec.eq_of_getLsbD_eq fun k hk => ?_
    simp [oneHot8_getLsbD, show m.toNat ≠ k by omega]

/-- Settles O21, by the bits of the mask. -/
theorem mappingSetsItsOwnBitOrNone : Obligations.MappingSetsItsOwnBitOrNone := by
  refine fun m => ⟨fun _ k hk => ?_, oneHot8_eq_zero_iff.mpr⟩
  rw [oneHot8_getLsbD, decide_eq_true hk, Bool.true_and, decide_eq_decide, eq_comm]

theorem entries_getElem? (t : BandTable) (k : Fin 5) : t.entries[k.val]? = some (t.entry k) := by
  match k with
  | 0 | 1 | 2 | 3 | 4 => rfl

/-- Bands 0 to 4 give the bit of their own entry's mapping (R101, R110). -/
theorem decodeBand_of_band_eq_index {t : BandTable} {sample : Half} {k : Fin 5} (h : t.band sample = k.val) :
    t.decodeBand sample = oneHot8 (t.entry k).map := by
  rw [BandTable.decodeBand, h, entries_getElem?]

/-- Band 5 reads no mapping (R104, R110). -/
theorem decodeBand_of_band_eq_five {t : BandTable} {sample : Half} (h : t.band sample = 5) :
    t.decodeBand sample = 0 := by
  rw [BandTable.decodeBand, h]; rfl

theorem map_lt_eight_of_mapFits {t : BandTable} (h : t.mapFits = true) (k : Fin 5) : (t.entry k).map.toNat < 8 := by
  have hmem : t.entry k ∈ t.entries := List.mem_of_getElem? (entries_getElem? t k)
  exact Nat.lt_succ_of_le (of_decide_eq_true (List.all_eq_true.mp h _ hmem))

/-- With mappings that fit, only band 5 gives the empty mask (R108 (e)). -/
theorem decodeBand_eq_zero_iff {t : BandTable} (h : t.mapFits = true) (sample : Half) :
    t.decodeBand sample = 0 ↔ t.band sample = 5 := by
  refine ⟨fun hzero => ?_, decodeBand_of_band_eq_five⟩
  rcases band_index_or_five t sample with ⟨k, hk⟩ | hfive
  · rw [decodeBand_of_band_eq_index hk, oneHot8_eq_zero_iff] at hzero
    exact absurd (map_lt_eight_of_mapFits h k) hzero.not_gt
  · exact hfive

/-- Settles O24: band 5 is that of the samples above every threshold. -/
theorem emptyMaskMeansBandFive : Obligations.EmptyMaskMeansBandFive := fun _ sample hfits =>
  ⟨decodeBand_eq_zero_iff hfits sample, (decodeBand_eq_zero_iff hfits sample).trans band_eq_five_iff⟩

end Sys2Proof

namespace Sys2Proof.Machine

/-! ### `DEC` -/

/-- `DEC` on a channel of the block hands over the decoded mask and writes nothing (R101). -/
theorem exec_dec {s : State} {ch : Nat} (hch : ch < s.cfg.nch) (sample : Half) :
    exec (.dec ch sample) s = .next { s with result := .mask ((s.cfg.table ch).decodeBand sample) } :=
  onChannel_of_lt s _ hch

/-- Settles O18: the first entry not exceeded is the band's, and band 5 has none. -/
theorem decReturnsTheMappedBitOfTheBand : Obligations.DecReturnsTheMappedBitOfTheBand := fun _ _ sample hch =>
  ⟨_, exec_dec hch sample,
    fun _ hbelow hk => decodeBand_of_band_eq_index (band_eq_index_iff.mpr ⟨hbelow, hk⟩),
    fun habove => decodeBand_of_band_eq_five (band_eq_five_iff.mpr habove)⟩

/-- Settles O20: such a sample is in band 5. -/
theorem sampleAboveEveryThresholdGivesTheEmptyMask : Obligations.SampleAboveEveryThresholdGivesTheEmptyMask := by
  intro s ch sample hch habove
  have hfive := band_eq_five_iff.mpr habove
  exact ⟨hfive, decodeBand_of_band_eq_five hfive ▸ exec_dec hch sample⟩

end Sys2Proof.Machine

namespace Sys2Proof.Machine

/-! ### The history of a channel, kept by every operation -/

/-- An operation extends the raw masks that account for a channel. -/
theorem exec_accountedBy {i : Instr} {s t : State} {c : Nat} {h : List Byte} (hs : s.Consistent) (hc : c < s.cfg.nch)
    (hr : (s.chan c).AccountedBy h) (hexec : exec i s = .next t) :
    (t.chan c).AccountedBy (extendHistory s.cfg c h i) := by
  rw [exec_chan hs hc hexec]
  exact afterOp_accountedBy hr s.cfg c i

/-- Settles O60: an operation does so, and a step is one on the state with the presentation taken off, which leaves the
registers and the configuration alone. -/
theorem everyStepKeepsTheHistoryOfAChannel : Obligations.EveryStepKeepsTheHistoryOfAChannel := by
  refine ⟨fun i s t c h hs hc hr hexec => ?_, fun i s t c h hs hc hr hop hstep => ?_⟩
  · exact ⟨exec_consistent hs hexec, exec_accountedBy hs hc hr hexec⟩
  · rw [step_of_nextOp hop] at hstep
    exact ⟨exec_consistent (s := s.taken) hs hstep, exec_accountedBy (s := s.taken) hs hc hr hstep⟩

/-- Every sequence of operations completes, from every state. -/
theorem runOps_completes (ops : List Instr) (s : State) : ∃ t, runOps ops s = .next t := by
  induction ops generalizing s with
  | nil => exact ⟨s, rfl⟩
  | cons i ops ih =>
    obtain ⟨u, hexec⟩ := exec_completes i s
    rw [runOps_cons ops hexec]
    exact ih u

/-- Settles O47: these are the clauses on `CNT` and `LAST` of the raw masks that account for the channel. -/
theorem counterIsTheSaturatedRunLength : Obligations.CounterIsTheSaturatedRunLength := by
  intro cfg ops c hc
  obtain ⟨t, hrun⟩ := runOps_completes ops (State.boot cfg)
  obtain ⟨hcnt, hlast, -⟩ := runOps_boot_accountedBy hc hrun
  exact ⟨t, hrun, hcnt, hlast⟩

/-! ### Masks of a channel without `STEP` -/

/-- Both mask registers hold 0x00 or a raw mask of the history. -/
theorem Channel.AccountedBy.last_eq_zero_or_mem {r : Channel} {h : List Byte} (hr : r.AccountedBy h) :
    r.last = 0 ∨ r.last ∈ h := by
  rw [hr.last]
  cases h with
  | nil => exact .inl rfl
  | cons raw earlier => exact .inr List.mem_cons_self

theorem Channel.AccountedBy.com_eq_zero_or_mem {r : Channel} {h : List Byte} (hr : r.AccountedBy h) :
    r.com = 0 ∨ r.com ∈ h := by
  refine hr.com.imp_right ?_
  rintro ⟨later, earlier, hseen⟩
  rw [hseen]
  simp

/-- Every raw mask of the history is that of a tick in the sequence of operations. -/
theorem exists_rawOn_of_mem_rawHistory {cfg : Config} {c : Nat} {ops : List Instr} {raw : Byte}
    (h : raw ∈ rawHistory cfg c ops) : ∃ i ∈ ops, rawOn cfg c i = some raw := by
  induction ops using List.reverseRecOn with
  | nil => cases h
  | append_singleton ops i ih =>
    have hnew : rawOn cfg c i = some raw ∨ raw ∈ rawHistory cfg c ops := by
      rw [rawHistory_concat, extendHistory] at h
      cases hreset : isReset i with
      | true => simp [hreset] at h
      | false =>
        cases hraw : rawOn cfg c i with
        | some last => simpa [hreset, hraw, eq_comm] using h
        | none => exact .inr (by simpa [hreset, hraw] using h)
    rcases hnew with hlast | hmem
    · exact ⟨i, by simp, hlast⟩
    · obtain ⟨j, hj, hraw⟩ := ih hmem
      exact ⟨j, by simp [hj], hraw⟩

/-- But for `STEP`, a tick has a decoded raw mask (R126, R77). -/
theorem rawOn_emptyOrOneHot {cfg : Config} {c : Nat} {i : Instr} {raw : Byte} (hi : ∀ r, i ≠ .step c r)
    (h : rawOn cfg c i = some raw) : emptyOrOneHot raw := by
  cases i with
  | step ch r =>
    obtain ⟨rfl, -⟩ := Option.ite_some_none_eq_some.mp h
    exact absurd rfl (hi r)
  | tick ch sample =>
    obtain ⟨-, rfl⟩ := Option.ite_some_none_eq_some.mp h
    exact decodedMaskIsEmptyOrOneHot (cfg.table ch) sample
  | _ => cases h

/-- Settles O58: each of the two registers holds 0x00 or the raw mask of a tick, and no tick was a `STEP`. -/
theorem tickedChannelsHoldOneHotMasks : Obligations.TickedChannelsHoldOneHotMasks := by
  intro cfg ops c t hc hops hrun
  have hr := runOps_boot_accountedBy hc hrun
  have hmask {m : Byte} (hm : m = 0 ∨ m ∈ rawHistory cfg c ops) : emptyOrOneHot m := by
    rcases hm with hzero | hmem
    · exact .inl hzero
    · obtain ⟨i, hi, hraw⟩ := exists_rawOn_of_mem_rawHistory hmem
      exact rawOn_emptyOrOneHot (hops i hi) hraw
  exact ⟨hmask hr.last_eq_zero_or_mem, hmask hr.com_eq_zero_or_mem⟩

/-! ### One `STEP` of a channel of the block -/

section

variable {s t : State} {ch : Nat} {raw : Byte} (hs : s.Consistent) (hch : ch < s.cfg.nch)
  (h : exec (.step ch raw) s = .next t)

include hch h in
/-- The result of `STEP` (R123). -/
theorem exec_step_result : t.result = .mask (t.com ch) := by
  rw [exec_result h, resultOf, if_pos hch]

include hs hch h

/-- `STEP` is a tick of the channel (R121). -/
theorem exec_step_chan : t.chan ch = (s.chan ch).tick raw := by
  have hraw : rawOn s.cfg ch (.step ch raw) = some raw := if_pos rfl
  rw [exec_chan hs hch h, afterOp_of_tick _ rfl hraw]

/-- The counter after `STEP` (R124). -/
theorem exec_step_cnt :
    (t.cnt ch).toNat = if raw = s.last ch then min ((s.cnt ch).toNat + 1) 255 else 1 := by
  rw [State.cnt, exec_step_chan hs hch h, tick_cnt]
  rfl

/-- The last raw mask after `STEP` (R125). -/
theorem exec_step_last : t.last ch = raw := by
  rw [State.last, exec_step_chan hs hch h, tick_last]

/-- The committed mask after `STEP` (R122). -/
theorem exec_step_com :
    t.com ch = if raw = s.last ch ∧ (s.cnt ch).toNat = 9 then raw else s.com ch := by
  rw [State.com, exec_step_chan hs hch h, tick_com]
  rfl

/-- From a saturated counter an equal raw mask writes nothing (R124). -/
theorem exec_step_chan_of_full (hraw : raw = s.last ch) (hfull : (s.cnt ch).toNat = 255) : t.chan ch = s.chan ch := by
  rw [exec_step_chan hs hch h]
  exact tick_of_full hraw (BitVec.eq_of_toNat_eq hfull)

end

/-- States with as many register sets, in which every channel reads the same, hold the same register sets. -/
theorem chans_eq_of_chan_eq {s t : State} (hlen : t.chans.length = s.chans.length) (h : ∀ c, t.chan c = s.chan c) :
    t.chans = s.chans := by
  refine List.ext_getElem hlen fun c ht hs => ?_
  rw [← chan_eq_getElem t c ht, ← chan_eq_getElem s c hs, h c]

/-- `STEP` leaves every other channel alone (R60). -/
theorem exec_step_chan_ne {s t : State} {ch d : Nat} {raw : Byte} (h : exec (.step ch raw) s = .next t) (hd : d ≠ ch) :
    t.chan d = s.chan d :=
  (exec_agreesOn_of_idleOn (idleOn_of_channel_ne rfl hd s.cfg) h).chan

/-- No operation but `RST` changes the number of register sets. -/
theorem exec_chans_length {i : Instr} {s t : State} (hi : isReset i = false) (h : exec i s = .next t) :
    t.chans.length = s.chans.length := by
  rw [(exec_channel h 0).1, hi, if_neg Bool.false_ne_true]

/-- Settles O27: the three rules are read off the counter and the two masks after `STEP`. -/
theorem stepFollowsTheTransitionRules : Obligations.StepFollowsTheTransitionRules := by
  intro s ch raw hs hch
  obtain ⟨t, h⟩ := exec_completes (.step ch raw) s
  have hcnt := exec_step_cnt hs hch h
  have hlast := exec_step_last hs hch h
  have hcom := exec_step_com hs hch h
  obtain ⟨hcfg, hpending⟩ := exec_keeps_cfg_and_pending h
  refine ⟨t, h, fun hne => ⟨hlast, ?_, ?_⟩, fun heq hroom => ⟨hlast.trans heq, ?_, ?_⟩, exec_step_chan_of_full hs hch h,
    exec_step_result hch h, fun d => exec_step_chan_ne h, exec_chans_length rfl h, hcfg, hpending⟩
  · rw [if_neg hne] at hcnt
    exact BitVec.eq_of_toNat_eq hcnt
  · rw [hcom, if_neg fun hcommit => hne hcommit.1]
  · have hlt := (s.cnt ch).isLt
    rw [hcnt, if_pos heq]
    omega
  · simp only [hcom, heq, true_and]

/-- Settles O28: the phase is that of the counter after the tick, range by range. -/
theorem phaseAfterATick : Obligations.PhaseAfterATick := by
  intro s t ch raw hs hch h
  have hlt := (s.cnt ch).isLt
  rw [State.phase, phaseOf, exec_step_cnt hs hch h]
  by_cases hraw : raw = s.last ch
  · rw [if_pos hraw, if_neg (not_not.mpr hraw)]
    grind
  · rw [if_neg hraw, if_pos hraw]
    rfl

/-- Settles O32: the result is the committed mask after `STEP`, which is the raw mask exactly when the tick commits. -/
theorem stepReturnsTheCommittedMaskAfterItsWrites : Obligations.StepReturnsTheCommittedMaskAfterItsWrites := by
  intro s ch raw hs hch
  obtain ⟨t, h⟩ := exec_completes (.step ch raw) s
  have hresult := exec_step_result hch h
  have hcom := exec_step_com hs hch h
  refine ⟨t, h, hresult, fun hraw hnine => ?_, fun hno => ?_⟩
  · rw [hresult, hcom, if_pos ⟨hraw, hnine⟩]
  · rw [hresult, hcom, if_neg hno]

/-- Settles O31: two raw masks are equal exactly when they agree in every bit. -/
theorem comparisonIsOverAllEightBits : Obligations.ComparisonIsOverAllEightBits := by
  intro s t ch raw hs hch h
  have hcnt := exec_step_cnt hs hch h
  have hlast := exec_step_last hs hch h
  refine ⟨?_, fun hbits => ?_⟩
  · rintro ⟨k, -, hbit⟩
    have hne : raw ≠ s.last ch := fun heq => hbit (by rw [heq])
    exact ⟨by rw [hcnt, if_neg hne], fun _ _ => by rw [hlast]⟩
  · have heq : raw = s.last ch := BitVec.eq_of_getLsbD_eq hbits
    exact ⟨by rw [hcnt, if_pos heq], hlast.trans heq⟩

/-! ### What any operation can do to a counter and a committed mask -/

/-- A tick changes the committed mask only with the last raw mask again, at a count of nine (R122). -/
theorem tick_commits_of_com_ne {r : Channel} {raw : Byte} (h : (r.tick raw).com ≠ r.com) :
    raw = r.last ∧ r.cnt.toNat = 9 := by
  by_contra hno
  exact h (by rw [tick_com, if_neg hno])

/-- Settles O29: an operation that changes `COM` is a tick of the channel, and that tick commits. -/
theorem commitHappensOnlyAtTheCountOfTen : Obligations.CommitHappensOnlyAtTheCountOfTen := by
  intro i s t c hs hc h hi hne
  have hten := exec_cnt_of_com_ne hs hc hi h hne
  have hchan := exec_chan hs hc h
  cases hraw : rawOn s.cfg c i with
  | none =>
    rw [afterOp_of_idle _ hi hraw] at hchan
    exact absurd (congrArg Channel.com hchan) hne
  | some raw =>
    rw [afterOp_of_tick _ hi hraw] at hchan
    have hcom : t.com c = ((s.chan c).tick raw).com := congrArg Channel.com hchan
    obtain ⟨hlast, hnine⟩ := tick_commits_of_com_ne (hcom ▸ hne)
    refine ⟨congrArg some hlast, hnine, hten, ?_⟩
    rw [hcom, tick_com, if_pos ⟨hlast, hnine⟩]
    exact hlast

/-- Settles O30: the counter after `STEP`, and, over all operations, what `afterOp` can make of a count of 255. -/
theorem counterSaturatesAt255 : Obligations.CounterSaturatesAt255 := by
  refine ⟨fun s t ch raw hs hch h hraw => ⟨?_, fun hfull => ?_⟩, fun i s t c hs hc h hfull hleft => ?_⟩
  · rw [exec_step_cnt hs hch h, if_pos hraw]
  · refine chans_eq_of_chan_eq (exec_chans_length rfl h) fun d => ?_
    rcases eq_or_ne d ch with rfl | hd
    · exact exec_step_chan_of_full hs hch h hraw hfull
    · exact exec_step_chan_ne h hd
  · have hchan := exec_chan hs hc h
    cases hreset : isReset i with
    | true =>
      rw [afterOp_of_reset _ _ _ hreset] at hchan
      exact .inl ⟨rfl, by rw [State.cnt, hchan]; rfl⟩
    | false =>
      cases hraw : rawOn s.cfg c i with
      | none =>
        rw [afterOp_of_idle _ hreset hraw] at hchan
        exact absurd ((congrArg (·.cnt.toNat) hchan).trans hfull) hleft
      | some raw =>
        rw [afterOp_of_tick _ hreset hraw] at hchan
        have hcnt : (t.cnt c).toNat = if raw = s.last c then min ((s.cnt c).toNat + 1) 255 else 1 :=
          (congrArg (·.cnt.toNat) hchan).trans (tick_cnt _ raw)
        have hne : raw ≠ s.last c := fun heq => hleft (by rw [hcnt, if_pos heq, hfull]; rfl)
        exact .inr ⟨raw, rfl, hne, by rw [hcnt, if_neg hne]⟩

/-! ### `TICK` -/

/-- `TICK` is `STEP` on the decoded sample (R126). -/
theorem exec_tick_eq_exec_step (ch : Nat) (sample : Half) (s : State) :
    exec (.tick ch sample) s = exec (.step ch ((s.cfg.table ch).decodeBand sample)) s := rfl

/-- Settles O33: `DEC` writes the result field only, which `STEP` does not read. -/
theorem tickIsDecThenStep : Obligations.TickIsDecThenStep := by
  intro s ch sample hch
  obtain ⟨t, htick⟩ := exec_completes (.tick ch sample) s
  refine ⟨_, _, t, exec_dec hch sample, rfl, ?_, htick⟩
  rw [exec_with_result, ← exec_tick_eq_exec_step, htick]

/-! ### A sequence of `STEP`s of one channel -/

/-- The registers of a channel after a sequence of ticks. -/
def Channel.ticks (r : Channel) (raws : List Byte) : Channel := raws.foldl Channel.tick r

theorem ticks_nil (r : Channel) : r.ticks [] = r := rfl

theorem ticks_cons (r : Channel) (raw : Byte) (raws : List Byte) : r.ticks (raw :: raws) = (r.tick raw).ticks raws := rfl

theorem ticks_concat (r : Channel) (raws : List Byte) (raw : Byte) :
    r.ticks (raws ++ [raw]) = (r.ticks raws).tick raw := List.foldl_concat ..

/-- The committed masks that a sequence of ticks leaves, one after each tick. -/
def Channel.comsAlong (r : Channel) : List Byte → List Byte
  | [] => []
  | raw :: raws => (r.tick raw).com :: (r.tick raw).comsAlong raws

theorem comsAlong_cons (r : Channel) (raw : Byte) (raws : List Byte) :
    r.comsAlong (raw :: raws) = (r.tick raw).com :: (r.tick raw).comsAlong raws := rfl

theorem comsAlong_concat (r : Channel) (raws : List Byte) (raw : Byte) :
    r.comsAlong (raws ++ [raw]) = r.comsAlong raws ++ [(r.ticks (raws ++ [raw])).com] := by
  induction raws generalizing r with
  | nil => rfl
  | cons first raws ih => rw [List.cons_append, comsAlong_cons, comsAlong_cons, ticks_cons, ih, List.cons_append]

/-- A sequence of `STEP`s of a channel of the block completes, ticks the channel, and hands over its committed masks. -/
theorem runOps_steps {s : State} {ch : Nat} (raws : List Byte) (hs : s.Consistent) (hch : ch < s.cfg.nch) :
    ∃ t, runOps (raws.map (.step ch)) s = .next t ∧ t.chan ch = (s.chan ch).ticks raws ∧
      opResults (raws.map (.step ch)) s = ((s.chan ch).comsAlong raws).map .mask := by
  induction raws generalizing s with
  | nil => exact ⟨s, rfl, rfl, rfl⟩
  | cons raw raws ih =>
    obtain ⟨u, h⟩ := exec_completes (.step ch raw) s
    have hchan := exec_step_chan hs hch h
    obtain ⟨t, hrun, ht, hresults⟩ := ih (exec_consistent hs h) (exec_cfg h ▸ hch)
    refine ⟨t, ?_, ?_, ?_⟩
    · rw [List.map_cons, runOps_cons _ h, hrun]
    · rw [ht, hchan, ticks_cons]
    · rw [List.map_cons, opResults_cons _ h, hresults, exec_step_result hch h, State.com, hchan, comsAlong_cons,
        List.map_cons]

/-! ### A steady raw mask -/

/-- A tick with the raw mask starts a run: it differs from the last one, or there was none since reset (R129, R130). -/
def Channel.StartsRun (r : Channel) (raw : Byte) : Prop := raw ≠ r.last ∨ r.cnt = 0

/-- The first tick of a run counts 1 and commits nothing. -/
theorem tick_of_startsRun {r : Channel} {raw : Byte} (h : r.StartsRun raw) : r.tick raw = ⟨1, raw, r.com⟩ := by
  rcases h with hne | hzero
  · exact tick_of_ne hne
  · exact tick_of_cnt_zero hzero raw

/-- The registers at the end of a run of at least one tick. -/
theorem ticks_replicate_succ {r : Channel} {raw : Byte} (h : r.StartsRun raw) (n : Nat) :
    (r.ticks (List.replicate (n + 1) raw)).last = raw ∧
    (r.ticks (List.replicate (n + 1) raw)).cnt.toNat = min (n + 1) 255 ∧
    (r.ticks (List.replicate (n + 1) raw)).com = if n + 1 < 10 then r.com else raw := by
  induction n with
  | zero =>
    rw [List.replicate_one, ticks_cons, ticks_nil, tick_of_startsRun h]
    exact ⟨rfl, rfl, rfl⟩
  | succ n ih =>
    obtain ⟨hlast, hcnt, hcom⟩ := ih
    rw [List.replicate_succ', ticks_concat, tick_last, tick_cnt, tick_com, hlast, hcnt, hcom]
    refine ⟨rfl, by rw [if_pos rfl]; omega, ?_⟩
    by_cases hnine : n + 1 = 9
    · rw [if_pos ⟨rfl, by omega⟩, if_neg (by omega)]
    · rw [if_neg (by omega)]
      exact if_congr (by omega) rfl rfl

/-- The committed mask along a run is replaced at its tenth tick (R130). -/
theorem ticks_replicate_com {r : Channel} {raw : Byte} (h : r.StartsRun raw) (n : Nat) :
    (r.ticks (List.replicate n raw)).com = if n < 10 then r.com else raw := by
  cases n with
  | zero => rfl
  | succ n =>
    obtain ⟨-, -, hcom⟩ := ticks_replicate_succ h n
    exact hcom

/-- The results of a run: nine times the mask committed before, then the run's own. -/
theorem comsAlong_replicate {r : Channel} {raw : Byte} (h : r.StartsRun raw) (n : Nat) :
    r.comsAlong (List.replicate n raw) = List.replicate (min n 9) r.com ++ List.replicate (n - 9) raw := by
  induction n with
  | zero => rfl
  | succ n ih =>
    rw [List.replicate_succ', comsAlong_concat, ih, ← List.replicate_succ', ticks_replicate_com h]
    rcases Nat.lt_or_ge n 9 with hn | hn
    · rw [if_pos (by omega), show min n 9 = n by omega, show min (n + 1) 9 = n + 1 by omega,
        show n - 9 = 0 by omega, show n + 1 - 9 = 0 by omega, List.replicate_succ',
        List.replicate_zero, List.append_nil, List.append_nil]
    · rw [if_neg (by omega), show min n 9 = 9 by omega, show min (n + 1) 9 = 9 by omega,
        show n + 1 - 9 = (n - 9) + 1 by omega, List.replicate_succ' (n := n - 9), List.append_assoc]

/-- Settles O50: the first tick after reset starts a run, over a committed mask of 0x00. -/
theorem steadyInputFromResetCommitsOnceAtTickTen : Obligations.SteadyInputFromResetCommitsOnceAtTickTen := by
  intro cfg c raw n hc
  obtain ⟨t, hrun, hchan, hresults⟩ := runOps_steps (List.replicate n raw) (boot_consistent cfg) hc
  have hstart : Channel.init.StartsRun raw := .inr rfl
  rw [List.map_replicate] at hrun hresults
  rw [chan_boot] at hchan hresults
  refine ⟨t, hrun, ?_, ?_⟩
  · rw [State.cnt, hchan]
    cases n with
    | zero => rfl
    | succ n =>
      obtain ⟨-, hcnt, -⟩ := ticks_replicate_succ hstart n
      exact hcnt
  · rw [hresults, comsAlong_replicate hstart, List.map_append, List.map_replicate, List.map_replicate]
    rfl

/-- Settles O51: a differing raw mask starts a run. -/
theorem changeIsCommittedAtItsTenthTick : Obligations.ChangeIsCommittedAtItsTenthTick := by
  intro s ch raw n hs hch hne
  obtain ⟨t, hrun, hchan, -⟩ := runOps_steps (List.replicate n raw) hs hch
  rw [List.map_replicate] at hrun
  refine ⟨t, hrun, ?_⟩
  rw [State.com, hchan, ticks_replicate_com (.inl hne)]
  rfl

/-- Settles O52: the glitch holds the committed mask `v`, and the run of `v` that starts after it commits `v` over `v`. -/
theorem glitchAfterACommitIsInvisible : Obligations.GlitchAfterACommitIsInvisible := by
  intro s ch v w n hs hch hcom hlast _ hw
  obtain ⟨t, hrun, hchan, hresults⟩ := runOps_steps (w :: List.replicate n v) hs hch
  have hglitch : (s.chan ch).tick w = ⟨1, w, v⟩ := by
    rw [tick_of_startsRun (.inl fun heq => hw (heq.trans hlast)), ← hcom]
    rfl
  have hstart : Channel.StartsRun ⟨1, w, v⟩ v := .inl hw.symm
  rw [List.map_cons, List.map_replicate] at hrun hresults
  rw [ticks_cons, hglitch] at hchan
  rw [comsAlong_cons, hglitch, comsAlong_replicate hstart] at hresults
  refine ⟨t, hrun, ?_, fun hn => ?_⟩
  · have hall : min n 9 + (n - 9) = n := by omega
    rw [hresults, List.replicate_append_replicate, hall, ← List.replicate_succ, List.map_replicate]
  · obtain ⟨m, rfl⟩ := Nat.exists_eq_add_of_le' hn
    obtain ⟨hlast', hcnt', -⟩ := ticks_replicate_succ hstart m
    rw [State.last, State.cnt, hchan]
    exact ⟨hlast', hcnt'⟩

/-! ### A raw mask that changes on every tick -/

/-- Each tick starts a run of its own, and none of them reaches ten. -/
theorem ticks_of_isChain_ne {r : Channel} {raws : List Byte} (h : List.IsChain (· ≠ ·) (r.last :: raws)) :
    (r.ticks raws).com = r.com ∧ (raws ≠ [] → (r.ticks raws).cnt = 1) := by
  induction raws generalizing r with
  | nil => exact ⟨rfl, fun hne => absurd rfl hne⟩
  | cons raw raws ih =>
    obtain ⟨hne, hrest⟩ := List.isChain_cons_cons.mp h
    have htick := tick_of_startsRun (.inl hne.symm)
    obtain ⟨hcom, hcnt⟩ := ih (r := ⟨1, raw, r.com⟩) hrest
    rw [ticks_cons, htick]
    refine ⟨hcom, fun _ => ?_⟩
    rcases eq_or_ne raws [] with rfl | hmore
    · rfl
    · exact hcnt hmore

/-- Settles O53: the channel's ticks keep its committed mask and leave a count of 1. -/
theorem alternatingInputNeverCommits : Obligations.AlternatingInputNeverCommits := by
  intro s ch raws hs hch hchain
  obtain ⟨t, hrun, hchan, -⟩ := runOps_steps raws hs hch
  obtain ⟨hcom, hcnt⟩ := ticks_of_isChain_ne (r := s.chan ch) hchain
  refine ⟨t, hrun, ?_, fun hne => ?_⟩
  · rw [State.com, hchan, hcom]
    rfl
  · rw [State.cnt, hchan, hcnt hne]
    rfl

end Sys2Proof.Machine

namespace Sys2Proof.Machine

/-! ### The clamp -/

theorem clamp_of_le {m a : Half} (h : a.toNat ≤ m.toNat) : clamp m a = a := by
  apply BitVec.eq_of_toNat_eq
  rw [clamp_toNat, min_eq_left h]

theorem clamp_of_ge {m a : Half} (h : m.toNat ≤ a.toNat) : clamp m a = m := by
  apply BitVec.eq_of_toNat_eq
  rw [clamp_toNat, min_eq_right h]

theorem clamp_le (m a : Half) : (clamp m a).toNat ≤ m.toNat := by
  rw [clamp_toNat]
  exact min_le_right _ _

theorem clamp_clamp (m a : Half) : clamp m (clamp m a) = clamp m a := clamp_of_le (clamp_le m a)

theorem clamp_mono (m : Half) {a b : Half} (h : a.toNat ≤ b.toNat) : (clamp m a).toNat ≤ (clamp m b).toNat := by
  rw [clamp_toNat, clamp_toNat]
  exact min_le_min_right _ h

/-- Settles O39: no axis exceeds 65535, and every axis reaches 0. -/
theorem clampAtTheEndsOfMaxAxis : Obligations.ClampAtTheEndsOfMaxAxis := fun a =>
  ⟨clamp_of_le (Nat.le_of_lt_succ a.isLt), clamp_of_ge (Nat.zero_le _), fun _ =>
    ⟨clamp_of_le, fun h => clamp_of_ge h.le⟩⟩

/-! ### The five fields of a record and its ten bytes -/

/-- Axis field `k` of a packed record is the `k`-th axis (R154). -/
theorem axis_packRecord (a0 a1 a2 a3 b : Half) (k : Fin 4) :
    (packRecord a0 a1 a2 a3 b).axis k = ![a0, a1, a2, a3] k := by
  match k with
  | 0 | 1 | 2 | 3 => exact fieldOf_bytes _

theorem buttons_packRecord (a0 a1 a2 a3 b : Half) : (packRecord a0 a1 a2 a3 b).buttons = b := fieldOf_bytes b

/-- The fields of a record in the order of R53: the four axes, then the buttons. -/
def Record.field (r : Record) : Fin 5 → Half := ![r.axis 0, r.axis 1, r.axis 2, r.axis 3, r.buttons]

/-- A byte of a record is the low or the high byte of one of the five fields (R52, R53). -/
theorem forall_byte_of_low_high {P : Fin 10 → Prop} (low : ∀ f : Fin 5, P ⟨2 * f, by omega⟩)
    (high : ∀ f : Fin 5, P ⟨2 * f + 1, by omega⟩) (k : Fin 10) : P k := by
  rcases Nat.mod_two_eq_zero_or_one k with hk | hk
  · have hindex : k = ⟨2 * (k.val / 2), by omega⟩ := Fin.ext (by simp only; omega)
    exact hindex ▸ low ⟨k.val / 2, by omega⟩
  · have hindex : k = ⟨2 * (k.val / 2) + 1, by omega⟩ := Fin.ext (by simp only; omega)
    exact hindex ▸ high ⟨k.val / 2, by omega⟩

theorem lowByte_field (r : Record) (f : Fin 5) : lowByte (r.field f) = r[2 * f.val] := by
  match f with
  | 0 | 1 | 2 | 3 | 4 => exact lowByte_fieldOf _ _

theorem highByte_field (r : Record) (f : Fin 5) : highByte (r.field f) = r[2 * f.val + 1] := by
  match f with
  | 0 | 1 | 2 | 3 | 4 => exact highByte_fieldOf _ _

/-- What is packed at a field's lower offset is the field's low byte. -/
theorem packRecord_getElem_low (v : Fin 5 → Half) (f : Fin 5) :
    (packRecord (v 0) (v 1) (v 2) (v 3) (v 4))[2 * f.val] = lowByte (v f) := by
  match f with
  | 0 | 1 | 2 | 3 | 4 => rfl

/-- What is packed at a field's higher offset is the field's high byte. -/
theorem packRecord_getElem_high (v : Fin 5 → Half) (f : Fin 5) :
    (packRecord (v 0) (v 1) (v 2) (v 3) (v 4))[2 * f.val + 1] = highByte (v f) := by
  match f with
  | 0 | 1 | 2 | 3 | 4 => rfl

/-- Packing the fields of a record gives the record back (R154). -/
theorem packRecord_fields (r : Record) : packRecord (r.axis 0) (r.axis 1) (r.axis 2) (r.axis 3) r.buttons = r := by
  have hbyte : ∀ k : Fin 10,
      (packRecord (r.axis 0) (r.axis 1) (r.axis 2) (r.axis 3) r.buttons)[k.val] = r[k.val] :=
    forall_byte_of_low_high (fun f => (packRecord_getElem_low r.field f).trans (lowByte_field r f))
      fun f => (packRecord_getElem_high r.field f).trans (highByte_field r f)
  exact Vector.ext fun k hk => hbyte ⟨k, hk⟩

/-! ### The 80-bit port -/

/-- With one field below a word, field `n + 1` of the two is field `n` of the word. -/
theorem extractLsb'_append_field {w n : Nat} {word : BitVec w} {low v : Half} (h : word.extractLsb' (16 * n) 16 = v) :
    (word ++ low).extractLsb' (16 * (n + 1)) 16 = v :=
  (BitVec.extractLsb'_append_eq_of_le (by omega)).trans h

/-- On the port, field `f` stands on bits `16*f+15 : 16*f` (R53). -/
theorem rec80_extractLsb'_field (r : Record) (f : Fin 5) : r.rec80.extractLsb' (16 * f.val) 16 = r.field f := by
  match f with
  | 0 => exact BitVec.extractLsb'_append_eq_right
  | 1 => exact extractLsb'_append_field BitVec.extractLsb'_append_eq_right
  | 2 => exact extractLsb'_append_field <| extractLsb'_append_field <| BitVec.extractLsb'_append_eq_right
  | 3 =>
    exact extractLsb'_append_field <| extractLsb'_append_field <| extractLsb'_append_field <| BitVec.extractLsb'_append_eq_right
  | 4 =>
    exact extractLsb'_append_field <| extractLsb'_append_field <| extractLsb'_append_field <| BitVec.extractLsb'_append_eq_left

/-- A part of a part of a word, as a part of the word. -/
theorem extractLsb'_extractLsb' {n start len start' len' : Nat} (x : BitVec n) (h : start' + len' ≤ len) :
    (x.extractLsb' start len).extractLsb' start' len' = x.extractLsb' (start + start') len' := by
  refine BitVec.eq_of_getLsbD_eq fun i hi => ?_
  have hin : start' + i < len := by omega
  simp only [BitVec.getLsbD_extractLsb', hi, hin, decide_true, Bool.true_and, Nat.add_assoc]

/-- Settles O37: a field's bytes are packed at its two offsets, and stand on the two halves of its bits on the port. -/
theorem packingAndUnpackingAreInverse : Obligations.PackingAndUnpackingAreInverse := by
  refine ⟨fun a0 a1 a2 a3 b => ?_, packRecord_fields, fun r => forall_byte_of_low_high (fun f => ?_) (fun f => ?_)⟩
  · have haxis := axis_packRecord a0 a1 a2 a3 b
    exact ⟨haxis 0, haxis 1, haxis 2, haxis 3, buttons_packRecord a0 a1 a2 a3 b⟩
  · have hstart : 8 * (2 * f.val) = 16 * f.val + 0 := by omega
    rw [← lowByte_field, ← rec80_extractLsb'_field, lowByte, extractLsb'_extractLsb' _ (by decide), hstart]
  · have hstart : 8 * (2 * f.val + 1) = 16 * f.val + 8 := by omega
    rw [← highByte_field, ← rec80_extractLsb'_field, highByte, extractLsb'_extractLsb' _ (by decide), hstart]

/-! ### `FRAME` -/

/-- `FRAME` hands over the framed record and writes nothing (R151). -/
theorem exec_frame (a0 a1 a2 a3 btn : Half) (s : State) :
    exec (.frame a0 a1 a2 a3 btn) s = .next { s with result := .record (frameRecord s.cfg.maxAxis a0 a1 a2 a3 btn) } := rfl

/-- Axis field `k` of a framed record is the `k`-th axis, clamped (R152). -/
theorem axis_frameRecord (m a0 a1 a2 a3 btn : Half) (k : Fin 4) :
    (frameRecord m a0 a1 a2 a3 btn).axis k = clamp m (![a0, a1, a2, a3] k) := by
  rw [frameRecord, axis_packRecord]
  match k with
  | 0 | 1 | 2 | 3 => rfl

theorem buttons_frameRecord (m a0 a1 a2 a3 btn : Half) : (frameRecord m a0 a1 a2 a3 btn).buttons = btn :=
  buttons_packRecord ..

theorem axis_frameRecord_toNat (m a0 a1 a2 a3 btn : Half) (k : Fin 4) :
    ((frameRecord m a0 a1 a2 a3 btn).axis k).toNat = min (![a0, a1, a2, a3] k).toNat m.toNat := by
  rw [axis_frameRecord, clamp_toNat]

/-- Framing the fields of a framed record with the same `MAX_AXIS` gives the same record (R155). -/
theorem frameRecord_fields (m a0 a1 a2 a3 btn : Half) :
    frameRecord m ((frameRecord m a0 a1 a2 a3 btn).axis 0) ((frameRecord m a0 a1 a2 a3 btn).axis 1)
      ((frameRecord m a0 a1 a2 a3 btn).axis 2) ((frameRecord m a0 a1 a2 a3 btn).axis 3)
      (frameRecord m a0 a1 a2 a3 btn).buttons = frameRecord m a0 a1 a2 a3 btn := by
  have hclamped (k : Fin 4) :
      clamp m ((frameRecord m a0 a1 a2 a3 btn).axis k) = (frameRecord m a0 a1 a2 a3 btn).axis k := by
    rw [axis_frameRecord, clamp_clamp]
  rw [frameRecord, hclamped, hclamped, hclamped, hclamped, packRecord_fields]

/-- Settles O34: the bytes are those of the clamped axes, which are minima, and of the buttons. -/
theorem frameReturnsTheTenBytes : Obligations.FrameReturnsTheTenBytes := by
  intro s a0 a1 a2 a3 btn
  have hlow (a : Half) : (lowByte (clamp s.cfg.maxAxis a)).toNat = min a.toNat s.cfg.maxAxis.toNat % 256 := by
    rw [lowByte_toNat, clamp_toNat]
  have hhigh (a : Half) : (highByte (clamp s.cfg.maxAxis a)).toNat = min a.toNat s.cfg.maxAxis.toNat / 256 := by
    rw [highByte_toNat, clamp_toNat]
  exact ⟨_, exec_frame a0 a1 a2 a3 btn s, hlow a0, hhigh a0, hlow a1, hhigh a1, hlow a2, hhigh a2, hlow a3, hhigh a3,
    lowByte_toNat btn, highByte_toNat btn⟩

/-- Settles O35: the four axis fields of the framed record, lane by lane. -/
theorem eachAxisIsClampedToMaxAxis : Obligations.EachAxisIsClampedToMaxAxis := by
  intro s a0 a1 a2 a3 btn
  have haxis := axis_frameRecord_toNat s.cfg.maxAxis a0 a1 a2 a3 btn
  exact ⟨_, _, exec_frame a0 a1 a2 a3 btn s, rfl, haxis 0, haxis 1, haxis 2, haxis 3⟩

/-- Settles O36: the button field of the framed record is the operand. -/
theorem buttonsPassUnchanged : Obligations.ButtonsPassUnchanged := fun s a0 a1 a2 a3 btn =>
  ⟨_, _, exec_frame a0 a1 a2 a3 btn s, rfl, buttons_frameRecord s.cfg.maxAxis a0 a1 a2 a3 btn⟩

/-- Settles O38: the fields of a framed record are within `MAX_AXIS` already, so the second clamp keeps them. -/
theorem framingAgainChangesNothing : Obligations.FramingAgainChangesNothing := by
  refine ⟨fun s s' a0 a1 a2 a3 btn hmax => ⟨_, exec_frame a0 a1 a2 a3 btn s, fun k => ?_, ?_⟩,
    fun m _ _ => clamp_mono m⟩
  · rw [axis_frameRecord]
    exact clamp_le _ _
  · rw [exec_frame, hmax, frameRecord_fields]

end Sys2Proof.Machine

namespace Sys2Proof.Machine

/-! ### What an operation writes and reads -/

/-- The operations that tick channel `c` are `STEP` and `TICK` on it (R126, R175). -/
theorem eq_step_or_tick_of_rawOn {cfg : Config} {c : Nat} {i : Instr} {raw : Byte} (h : rawOn cfg c i = some raw) :
    (∃ raw, i = .step c raw) ∨ ∃ sample, i = .tick c sample := by
  cases i with
  | step ch raw => obtain ⟨rfl, -⟩ := Option.ite_some_none_eq_some.mp h; exact .inl ⟨raw, rfl⟩
  | tick ch sample => obtain ⟨rfl, -⟩ := Option.ite_some_none_eq_some.mp h; exact .inr ⟨sample, rfl⟩
  | _ => cases h

/-- Settles O42: an operation that ticks no channel `c` is idle on it, and so keeps its registers. -/
theorem onlyTicksAndResetWriteRegisters : Obligations.OnlyTicksAndResetWriteRegisters := by
  intro i s t c h hreset hwritten
  cases hraw : rawOn s.cfg c i with
  | some raw => exact eq_step_or_tick_of_rawOn hraw
  | none => exact absurd (exec_agreesOn_of_idleOn ⟨hreset, hraw⟩ h).chan hwritten

/-- On blocks with as many channels, an operation on a channel hands over the same result if it does so where the channel
exists: elsewhere no result is valid on either (R80). -/
theorem onChannel_result_congr {s s' done done' t t' : State} {ch : Nat} (hnch : s.cfg.nch = s'.cfg.nch)
    (h : s.onChannel ch done = .next t) (h' : s'.onChannel ch done' = .next t')
    (hdone : ch < s.cfg.nch → done.result = done'.result) : t.result = t'.result := by
  rw [onChannel_result h, onChannel_result h', ← hnch]
  exact ite_congr rfl hdone fun _ => rfl

/-- The result of a tick of a channel with a register set, by the registers it finds (R123). -/
theorem debounce_result_of_lt {s : State} {ch : Nat} (hch : ch < s.chans.length) (raw : Byte) :
    (s.debounce ch raw).result = .mask ((s.chan ch).tick raw).com := by
  rw [debounce_result, State.com, debounce_chan_self s ch raw hch]

/-- The result of a tick depends on the registers of its channel and on its raw mask. -/
theorem onChannel_debounce_result_congr {s s' t t' : State} {ch : Nat} {raw raw' : Byte} (hs : s.Consistent)
    (hs' : s'.Consistent) (hnch : s.cfg.nch = s'.cfg.nch) (h : s.onChannel ch (s.debounce ch raw) = .next t)
    (h' : s'.onChannel ch (s'.debounce ch raw') = .next t') (hchan : s.chan ch = s'.chan ch) (hraw : raw = raw') :
    t.result = t'.result := by
  refine onChannel_result_congr hnch h h' fun hch => ?_
  rw [debounce_result_of_lt (hs.symm ▸ hch), debounce_result_of_lt (hs'.symm ▸ hnch ▸ hch), hchan, hraw]

/-- Settles O43: the result of each operation is a function of its operands and of what its row of the table names. -/
theorem resultsDependOnlyOnWhatIsRead : Obligations.ResultsDependOnlyOnWhatIsRead := by
  intro i s s' t t' hs hs' hnch h h' hread
  cases i with
  | dec ch sample =>
    have htable : s.bandTable ch = s'.bandTable ch := hread
    exact onChannel_result_congr hnch h h' fun _ => by rw [htable, answer_result, answer_result]
  | step ch raw => exact onChannel_debounce_result_congr hs hs' hnch h h' hread rfl
  | tick ch sample =>
    obtain ⟨hchan, htable⟩ := hread
    exact onChannel_debounce_result_congr hs hs' hnch h h' hchan (congrArg (·.decodeBand sample) htable)
  | rdc ch => exact onChannel_result_congr hnch h h' fun _ => congrArg Result.mask hread
  | frame a0 a1 a2 a3 btn =>
    cases h
    cases h'
    exact congrArg (fun maxAxis => Result.record (frameRecord maxAxis a0 a1 a2 a3 btn)) hread
  | nop => cases h; cases h'; rfl
  | reserved6 => cases h; cases h'; rfl
  | reserved7 => cases h; cases h'; rfl
  | rst => cases h; cases h'; rfl

/-! ### `NOP`, `RDC` and `RST` -/

/-- Settles O12: `NOP` writes the result field only. -/
theorem nopCompletesAndHoldsEveryRegister : Obligations.NopCompletesAndHoldsEveryRegister := fun _ => rfl

/-- The output `com_all` shows the committed mask of every channel with a register set (R173). -/
theorem comAll_getElem? {s : State} {ch : Nat} (hch : ch < s.chans.length) : s.comAll[ch]? = some (s.com ch) := by
  rw [State.comAll, List.getElem?_map, List.getElem?_eq_getElem hch, State.com, chan_eq_getElem s ch hch, Option.map_some]

/-- Settles O13: `RDC` on a channel of the block, which in a consistent state has a register set to show. -/
theorem rdcReturnsTheCommittedMask : Obligations.RdcReturnsTheCommittedMask := fun s _ hs hch =>
  ⟨onChannel_of_lt s _ hch, comAll_getElem? (hs.symm ▸ hch)⟩

/-- Settles O14: after `RST` every channel reads the reset values, and the other fields are not touched. -/
theorem rstInitialisesEveryChannel : Obligations.RstInitialisesEveryChannel := by
  intro op s
  refine ⟨s.resetChannels.answer .none, rfl, rfl, rfl, rfl, List.length_replicate, fun c _ => ?_⟩
  rw [answer_cnt, answer_last, answer_com, State.cnt, State.last, State.com, chan_resetChannels]
  exact ⟨rfl, rfl, rfl⟩

end Sys2Proof.Machine

namespace Sys2Proof

/-! ### The presentations that no channel port can carry -/

/-- The four control vectors whose rows read the channel port, and no others (R72, R74). -/
theorem channel?_asRow {p : Ports} {op : OpCode} (h : selectOp p.ctl = some op) :
    (p.asRow op).channel? =
      if p.ctl = 0x1 ∨ p.ctl = 0x2 ∨ p.ctl = 0x3 ∨ p.ctl = 0x4 then some p.ch else none := by
  rw [← ctl_asRow h]
  cases op with
  | dec | step | tick | rdc => exact (if_pos (by simp [Ports.asRow, Instr.ctl])).symm
  | nop | frame | reserved6 | reserved7 => exact (if_neg (by simp [Ports.asRow, Instr.ctl])).symm
  | rst =>
    have hfree : ∀ free : BitVec 3, ¬ ((Instr.rst free).ctl = 0x1 ∨ (Instr.rst free).ctl = 0x2 ∨
        (Instr.rst free).ctl = 0x3 ∨ (Instr.rst free).ctl = 0x4) := by decide
    exact (if_neg (hfree _)).symm

theorem wellFormed_iff {w : Nat} {i : Instr} :
    i.wellFormed w = true ↔ ∀ ch, i.channel? = some ch → fitsPort w ch = true := by
  unfold Instr.wellFormed
  cases i.channel? <;> simp

/-- A row's operation fits the ports unless the row reads a channel number that is wider than the port (R74). -/
theorem wellFormed_asRow_iff {w : Nat} {p : Ports} {op : OpCode} (hw : 1 ≤ w) (h : selectOp p.ctl = some op) :
    (p.asRow op).wellFormed w = true ↔
      ¬ ((p.ctl = 0x1 ∨ p.ctl = 0x2 ∨ p.ctl = 0x3 ∨ p.ctl = 0x4) ∧ 2 ^ w ≤ p.ch) := by
  rw [wellFormed_iff, channel?_asRow h, not_and, Nat.not_le]
  split
  · next hreads => rw [imp_iff_right hreads, ← Laws.fitsPort_iff hw]; simp
  · next hreads => exact iff_of_true nofun fun hreads' => absurd hreads' hreads

end Sys2Proof

namespace Sys2Proof.Machine

/-- A presentation that decodes to nothing is refused, for the decoder's reason. -/
theorem step_of_nextOp_error {s : State} {e : DecodeError} (h : s.nextOp = .error e) :
    step s = .refused (.undecodable e) := by simp [step, h]

/-- A presentation that decodes is performed, and every operation completes. -/
theorem step_completes_of_nextOp {s : State} {i : Instr} (h : s.nextOp = .ok i) : ∃ t, step s = .next t := by
  rw [step_of_nextOp h]
  exact exec_completes i s.taken

/-- Settles O10: every presentation selects a row, whose operation decodes exactly when it fits the ports; `NOP`, for which an
empty list stands, completes as every operation does. -/
theorem stepIsRefusedOnlyOnAnUnpresentableChannel : Obligations.StepIsRefusedOnlyOnAnUnpresentableChannel := by
  intro s
  refine ⟨fun hnone => ?_, fun p rest hpending => ?_⟩
  · rw [stepWithNothingPresentedIsNop s hnone]
    exact exec_completes .nop s
  · obtain ⟨op, hop⟩ := selectOp_total p.ctl
    have hnext : s.nextOp = if (p.asRow op).wellFormed s.cfg.chW then .ok (p.asRow op) else .error .channelTooWide :=
      (nextOp_of_pending hpending).trans (decode_of_selectOp hop s.cfg.chW)
    have hfits := wellFormed_asRow_iff (Laws.one_le_chW s.cfg) hop
    split
    · next hwide => exact step_of_nextOp_error (hnext.trans (if_neg fun hwf => hfits.mp hwf hwide))
    · next hnarrow => exact step_completes_of_nextOp (hnext.trans (if_pos (hfits.mpr hnarrow)))

/-- Settles O40: an operation completes in every state, and none writes the caller's list. -/
theorem everyOperationCompletes : Obligations.EveryOperationCompletes := by
  intro i s
  obtain ⟨t, hexec⟩ := exec_completes i s
  obtain ⟨-, hpending⟩ := exec_keeps_cfg_and_pending hexec
  exact ⟨t, hexec, hpending⟩

end Sys2Proof.Machine

namespace Sys2Proof.Machine

/-! ### Reset (R211, R212) -/

/-- A commit takes ten raw masks, so a shorter history accounts for an empty committed mask only. -/
theorem Channel.AccountedBy.com_eq_zero_of_length_le_nine {r : Channel} {h : List Byte} (hr : r.AccountedBy h)
    (hshort : h.length ≤ 9) : r.com = 0 := by
  rcases hr.com with hzero | ⟨later, earlier, hseen⟩
  · exact hzero
  · rw [hseen, List.length_append, List.length_append, List.length_replicate] at hshort
    omega

/-- Settles O55: the raw masks since the last reset account for the channel, and they are too few for a commit. -/
theorem firstNineTicksAfterResetReturnZero : Obligations.FirstNineTicksAfterResetReturnZero := fun _ _ _ _ hc hrun hfew =>
  (runOps_boot_accountedBy hc hrun).com_eq_zero_of_length_le_nine hfew

/-- Settles O17: every channel of the reset state reads `Channel.init`, whose count of 0 is in the unstable phase. -/
theorem resetStateHoldsTheResetValues : Obligations.ResetStateHoldsTheResetValues := by
  refine ⟨rfl, fun cfg => ⟨boot_cfg cfg, boot_consistent cfg, fun c _ => ?_⟩⟩
  rw [State.phase, State.cnt, State.last, State.com, chan_boot]
  exact ⟨rfl, rfl, rfl, rfl⟩

end Sys2Proof.Machine
